-- ==== Sys2Proof/Word.lean ====
section
/-! DEFINITION. The word types of the b6x CORE (00_scope.md R12, R15). -/

namespace Sys2Proof

/-- A byte: one memory cell, one stack slot, one port, one opcode. -/
abbrev Byte := BitVec 8

/-- A short: an address, a program counter, a VDP register (R12). -/
abbrev Short := BitVec 16

/-- One output pixel: an RGBA word (R806). -/
abbrev Pixel := BitVec 32

end Sys2Proof
end

