-- ==== Sys2Proof/Config.lean ====
section
/-! DEFINITION. The parameters of 00_scope.md R11 and the free value of RUN_OFF. -/

namespace Sys2Proof

/-- Base of the 16-bit displacement of JCI, JMI and JSI (R306). -/
inductive ImmRelBase where
  /-- `A + 1`, the address of the displacement: the default. -/
  | afterOpcode
  /-- `A + 3`, the address after the displacement. -/
  | afterOperand
deriving DecidableEq, Repr

/-- What RUN_OFF admits (R410) after an instruction whose fetch or immediate reads moved the program
counter from 0xFFFF to 0x0000. -/
inductive RunOff where
  /-- The invocation always goes on. -/
  | never
  /-- The default: both ending with result 1 and going on are admitted. -/
  | mayAtWrap
  /-- The invocation always ends with result 1. -/
  | alwaysAtWrap
deriving DecidableEq, Repr

/-- The parameters R11 leaves to the model. BOOT_OFFSET and ENTRY are arguments of the host's calls. -/
structure Params where
  immRelBase : ImmRelBase
  runOff : RunOff
  /-- MAX_NEST (R412): `none` is unbounded. -/
  maxNest : Option Nat
  /-- EXT_PORTS with a read handler of an external device (R703, R710). -/
  extReadPorts : List Byte
  /-- EXT_PORTS with a write handler of an external device (R703, R710). -/
  extWritePorts : List Byte
  /-- VDP_PORT, the port of the high byte; the low byte is at the next port (R707). -/
  vdpPort : Byte
deriving DecidableEq, Repr

/-- The defaults of R11. -/
def Params.spec : Params where
  immRelBase := .afterOpcode
  runOff := .mayAtWrap
  maxNest := none
  extReadPorts := []
  extWritePorts := []
  vdpPort := 0x20

/-- FREE VALUE (log 12): whether the invocation ends at the n-th program-counter wrap at which R410
admits both continuations. It has no body: nothing can be proved of its value. -/
opaque Config.runOffChoice : Nat → Bool

/-- The frame is 320 x 224 pixels (R9). -/
def Config.frameWidth : Nat := 320

/-- The frame is 320 x 224 pixels (R9). -/
def Config.frameHeight : Nat := 224

/-- The sprite list walk examines at most 320 entries (R9, R810). -/
def Config.spriteWalk : Nat := 320

/-- The sprite row cache keeps at most 32 matches (R9, R123). -/
def Config.spriteSlots : Nat := 32

end Sys2Proof
end

