-- ==== Sys2Proof/Syntax.lean ====
section
/-! DEFINITION. The instructions of the b6x CORE: one constructor per row of spec/opcode_table.json.
A mnemonic's `2`, `k` and `r` variants are the mode bits of one constructor (30_encoding.md R301, R310). -/

namespace Sys2Proof

/-- The three mode bits of an opcode byte (R301). -/
structure Mode where
  /-- bit 7, `k`: operands are kept. -/
  keep : Bool
  /-- bit 6, `r`: the return stack is the active one. -/
  ret : Bool
  /-- bit 5, `s`: values are shorts. -/
  short : Bool
deriving DecidableEq, Repr

/-- An instruction with its operands (R303, R304). Every term is an instruction: no field can hold a
value that the encoding does not admit (R308). -/
inductive Instr where
  | brk
  | jci (disp : Short)
  | jmi (disp : Short)
  | jsi (disp : Short)
  | lit (v : Byte)
  | lit2 (v : Short)
  | litr (v : Byte)
  | lit2r (v : Short)
  | inc (m : Mode)
  | pop (m : Mode)
  | nip (m : Mode)
  | swp (m : Mode)
  | rot (m : Mode)
  | dup (m : Mode)
  | ovr (m : Mode)
  | equ (m : Mode)
  | neq (m : Mode)
  | gth (m : Mode)
  | lth (m : Mode)
  | jmp (m : Mode)
  | jcn (m : Mode)
  | jsr (m : Mode)
  | sth (m : Mode)
  | ldz (m : Mode)
  | stz (m : Mode)
  | ldr (m : Mode)
  | str (m : Mode)
  | lda (m : Mode)
  | sta (m : Mode)
  | dei (m : Mode)
  | deo (m : Mode)
  | add (m : Mode)
  | sub (m : Mode)
  | mul (m : Mode)
  | div (m : Mode)
  | and (m : Mode)
  | ora (m : Mode)
  | eor (m : Mode)
  | sft (m : Mode)
deriving DecidableEq, Repr

end Sys2Proof
end

