-- ==== Sys2Proof/Decode.lean ====
section
/-! DEFINITION. The decoder, total on any bytes, and the encoder after it (30_encoding.md R300 to R310). -/

namespace Sys2Proof

/-- Why a byte list holds no instruction. No opcode byte is illegal (R308), so only missing bytes are
rejected. -/
inductive DecodeError where
  /-- There is no opcode byte. -/
  | noOpcode
  /-- The opcode byte announces an instruction of `need` bytes (R300) and fewer are there. -/
  | truncated (need : Nat)
deriving DecidableEq, Repr

/-- The mode bits of an opcode byte (R301). -/
def decodeMode (op : Byte) : Mode where
  keep := op.getLsbD 7
  ret := op.getLsbD 6
  short := op.getLsbD 5

/-- The base operation of an opcode byte, bits 4:0 (R301). -/
def decodeBase (op : Byte) : Nat := (op.extractLsb' 0 5).toNat

/-- The number of immediate bytes after the opcode (R300). -/
def immediateBytes (op : Byte) : Nat :=
  if decodeBase op = 0 then
    match decodeMode op with
    | ⟨false, false, false⟩ => 0
    | ⟨true, _, false⟩ => 1
    | _ => 2
  else 0

/-- Base operation 0: the mode bits select the form (R303); the immediate's high byte is first (R305). -/
def decodeForm (m : Mode) (b1 b2 : Byte) : Instr :=
  match m with
  | ⟨false, false, false⟩ => .brk
  | ⟨false, false, true⟩ => .jci (b1 ++ b2)
  | ⟨false, true, false⟩ => .jmi (b1 ++ b2)
  | ⟨false, true, true⟩ => .jsi (b1 ++ b2)
  | ⟨true, false, false⟩ => .lit b1
  | ⟨true, false, true⟩ => .lit2 (b1 ++ b2)
  | ⟨true, true, false⟩ => .litr b1
  | ⟨true, true, true⟩ => .lit2r (b1 ++ b2)

/-- The instruction of an opcode byte and the two bytes after it, of which it uses as many as
`immediateBytes` says (R302, R303, R304). -/
def decodeOp (op b1 b2 : Byte) : Instr :=
  match decodeBase op with
  | 0 => decodeForm (decodeMode op) b1 b2
  | 1 => .inc (decodeMode op)
  | 2 => .pop (decodeMode op)
  | 3 => .nip (decodeMode op)
  | 4 => .swp (decodeMode op)
  | 5 => .rot (decodeMode op)
  | 6 => .dup (decodeMode op)
  | 7 => .ovr (decodeMode op)
  | 8 => .equ (decodeMode op)
  | 9 => .neq (decodeMode op)
  | 10 => .gth (decodeMode op)
  | 11 => .lth (decodeMode op)
  | 12 => .jmp (decodeMode op)
  | 13 => .jcn (decodeMode op)
  | 14 => .jsr (decodeMode op)
  | 15 => .sth (decodeMode op)
  | 16 => .ldz (decodeMode op)
  | 17 => .stz (decodeMode op)
  | 18 => .ldr (decodeMode op)
  | 19 => .str (decodeMode op)
  | 20 => .lda (decodeMode op)
  | 21 => .sta (decodeMode op)
  | 22 => .dei (decodeMode op)
  | 23 => .deo (decodeMode op)
  | 24 => .add (decodeMode op)
  | 25 => .sub (decodeMode op)
  | 26 => .mul (decodeMode op)
  | 27 => .div (decodeMode op)
  | 28 => .and (decodeMode op)
  | 29 => .ora (decodeMode op)
  | 30 => .eor (decodeMode op)
  | _ => .sft (decodeMode op)

/-- Read one instruction from a byte list and return the bytes after it. -/
def decode (bytes : List Byte) : Except DecodeError (Instr × List Byte) :=
  match bytes with
  | [] => .error .noOpcode
  | op :: rest =>
    if rest.length < immediateBytes op then .error (.truncated (1 + immediateBytes op))
    else .ok (decodeOp op (rest.getD 0 0) (rest.getD 1 0), rest.drop (immediateBytes op))

/-- The opcode byte of a base operation with its mode bits (R301). -/
def opByte (m : Mode) (base : BitVec 5) : Byte :=
  BitVec.ofBool m.keep ++ BitVec.ofBool m.ret ++ BitVec.ofBool m.short ++ base

/-- The high byte of a short. -/
def hiByte (v : Short) : Byte := v.extractLsb' 8 8

/-- The low byte of a short. -/
def loByte (v : Short) : Byte := v.extractLsb' 0 8

/-- The bytes of an instruction in memory order (R300, R303, R304; immediates big-endian, R201). -/
def encode (i : Instr) : List Byte :=
  match i with
  | .brk => [0x00]
  | .jci d => [0x20, hiByte d, loByte d]
  | .jmi d => [0x40, hiByte d, loByte d]
  | .jsi d => [0x60, hiByte d, loByte d]
  | .lit v => [0x80, v]
  | .lit2 v => [0xA0, hiByte v, loByte v]
  | .litr v => [0xC0, v]
  | .lit2r v => [0xE0, hiByte v, loByte v]
  | .inc m => [opByte m 0x01#5]
  | .pop m => [opByte m 0x02#5]
  | .nip m => [opByte m 0x03#5]
  | .swp m => [opByte m 0x04#5]
  | .rot m => [opByte m 0x05#5]
  | .dup m => [opByte m 0x06#5]
  | .ovr m => [opByte m 0x07#5]
  | .equ m => [opByte m 0x08#5]
  | .neq m => [opByte m 0x09#5]
  | .gth m => [opByte m 0x0A#5]
  | .lth m => [opByte m 0x0B#5]
  | .jmp m => [opByte m 0x0C#5]
  | .jcn m => [opByte m 0x0D#5]
  | .jsr m => [opByte m 0x0E#5]
  | .sth m => [opByte m 0x0F#5]
  | .ldz m => [opByte m 0x10#5]
  | .stz m => [opByte m 0x11#5]
  | .ldr m => [opByte m 0x12#5]
  | .str m => [opByte m 0x13#5]
  | .lda m => [opByte m 0x14#5]
  | .sta m => [opByte m 0x15#5]
  | .dei m => [opByte m 0x16#5]
  | .deo m => [opByte m 0x17#5]
  | .add m => [opByte m 0x18#5]
  | .sub m => [opByte m 0x19#5]
  | .mul m => [opByte m 0x1A#5]
  | .div m => [opByte m 0x1B#5]
  | .and m => [opByte m 0x1C#5]
  | .ora m => [opByte m 0x1D#5]
  | .eor m => [opByte m 0x1E#5]
  | .sft m => [opByte m 0x1F#5]

/-- An instruction's length in bytes (R300). -/
def instrLength (i : Instr) : Nat :=
  match i with
  | .jci _ | .jmi _ | .jsi _ | .lit2 _ | .lit2r _ => 3
  | .lit _ | .litr _ => 2
  | _ => 1

/-- Byte `j` of an instruction numbered as spec/opcode_table.json numbers its bits: the first byte is
bits 7..0, and the bits from `nbits` on are 0. -/
def tableByte (nbits w j : Nat) : Byte := BitVec.ofNat 8 (w % 2 ^ nbits / 256 ^ j)

/-- The instruction the decoder reads from the table word `w` of `nbits` bits, with zeros after it. -/
def decodeTableWord (nbits w : Nat) : Option Instr :=
  match decode [tableByte nbits w 0, tableByte nbits w 1, tableByte nbits w 2] with
  | .ok (i, _) => some i
  | .error _ => none

/-- The suffix of a mnemonic: `2` if s, `k` if k, `r` if r, in this order (R310). -/
def modeSuffix (m : Mode) : String :=
  (if m.short then "2" else "") ++ (if m.keep then "k" else "") ++ (if m.ret then "r" else "")

/-- The spec's name of an instruction (R310). -/
def mnemonic (i : Instr) : String :=
  match i with
  | .brk => "BRK"
  | .jci _ => "JCI"
  | .jmi _ => "JMI"
  | .jsi _ => "JSI"
  | .lit _ => "LIT"
  | .lit2 _ => "LIT2"
  | .litr _ => "LITr"
  | .lit2r _ => "LIT2r"
  | .inc m => "INC" ++ modeSuffix m
  | .pop m => "POP" ++ modeSuffix m
  | .nip m => "NIP" ++ modeSuffix m
  | .swp m => "SWP" ++ modeSuffix m
  | .rot m => "ROT" ++ modeSuffix m
  | .dup m => "DUP" ++ modeSuffix m
  | .ovr m => "OVR" ++ modeSuffix m
  | .equ m => "EQU" ++ modeSuffix m
  | .neq m => "NEQ" ++ modeSuffix m
  | .gth m => "GTH" ++ modeSuffix m
  | .lth m => "LTH" ++ modeSuffix m
  | .jmp m => "JMP" ++ modeSuffix m
  | .jcn m => "JCN" ++ modeSuffix m
  | .jsr m => "JSR" ++ modeSuffix m
  | .sth m => "STH" ++ modeSuffix m
  | .ldz m => "LDZ" ++ modeSuffix m
  | .stz m => "STZ" ++ modeSuffix m
  | .ldr m => "LDR" ++ modeSuffix m
  | .str m => "STR" ++ modeSuffix m
  | .lda m => "LDA" ++ modeSuffix m
  | .sta m => "STA" ++ modeSuffix m
  | .dei m => "DEI" ++ modeSuffix m
  | .deo m => "DEO" ++ modeSuffix m
  | .add m => "ADD" ++ modeSuffix m
  | .sub m => "SUB" ++ modeSuffix m
  | .mul m => "MUL" ++ modeSuffix m
  | .div m => "DIV" ++ modeSuffix m
  | .and m => "AND" ++ modeSuffix m
  | .ora m => "ORA" ++ modeSuffix m
  | .eor m => "EOR" ++ modeSuffix m
  | .sft m => "SFT" ++ modeSuffix m

end Sys2Proof
end

