-- ==== Sys2Proof/Machine/State.lean ====
section
/-! DEFINITION. The machine state: the aggregate of 10_state.md R100, the invocation stack (R107,
R108), the host's side of the interface (R124, R930) and the model's own fields. -/

namespace Sys2Proof.Machine

/-- A sparse memory of `w`-bit cells: address and value, in one canonical form (`Store.wf`). -/
abbrev Store (w : Nat) := List (Nat × BitVec w)

/-- What an address that is not listed reads as: 0, the startup value of every byte (R126). -/
def Store.unlisted {w : Nat} : BitVec w := 0

/-- Every address is below `n`, addresses strictly rise, and no listed value is the unlisted one: equal
memories are equal lists. -/
def Store.wf {w : Nat} (n : Nat) : Store w → Bool
  | [] => true
  | c :: rest =>
    decide (c.1 < n) && decide (c.2 ≠ Store.unlisted) && rest.all (fun d => decide (c.1 < d.1)) && Store.wf n rest

/-- A byte memory: a list of `Host.Cell`. -/
abbrev Memory := Store 8

/-- The canonical form of a 65536-byte memory. -/
def Memory.wf (m : Memory) : Bool := Store.wf 65536 m

/-- The pixels of an output buffer by index `y * 320 + x` (R800). -/
abbrev FrameBuffer := Store 32

/-- `n` like registers: a list that carries the proof of its length, so that a file of another size
cannot be built. -/
structure Regs (n : Nat) (α : Type) where
  cells : List α
  len : cells.length = n
deriving DecidableEq, Repr

/-- `n` registers that hold the same value. -/
def Regs.all (n : Nat) {α : Type} (v : α) : Regs n α := ⟨List.replicate n v, List.length_replicate⟩

/-- A file of `2 ^ k` like registers, indexed by `k` bits. -/
abbrev Bank (k : Nat) (α : Type) := Regs (2 ^ k) α

/-- One of the two stacks: 256 bytes and the index of the next free slot (R102, R103). -/
structure Stack where
  dat : Bank 8 Byte
  ptr : Byte
deriving DecidableEq, Repr

/-- An empty stack of zero bytes (R126). -/
def Stack.reset : Stack where
  dat := Regs.all _ 0
  ptr := 0

/-- A slot of the sprite row cache: pattern/flag word, size/flag word, x, y (R123, R811). -/
structure SpriteSlot where
  w0 : Short
  w1 : Short
  x : Short
  y : Short
deriving DecidableEq, Repr

/-- The sentinel slot (R810) and the startup content of every slot (R126). -/
def SpriteSlot.zero : SpriteSlot := ⟨0, 0, 0, 0⟩

/-- Where the renderer stands within a frame (R803). -/
inductive RenderPoint where
  /-- before step 0, the vertical-blank vector (R801) -/
  | vblank
  /-- before step 1, the whole-frame skip (R802) -/
  | skipTest
  /-- before steps a and b of row `y`: sprite cache and horizontal-blank vector (R804) -/
  | rowStart (y : Fin 224)
  /-- before steps c and d of row `y` and its pixels (R804) -/
  | rowDraw (y : Fin 224)
deriving DecidableEq, Repr

/-- The direction of a bus access (R703). -/
inductive BusDir where
  | read
  | write
deriving DecidableEq, Repr

/-- What is left of a DEI or DEO when the external handler of one of its bus accesses returns (R409,
R704, R705). `ret` names the stack a DEI pushes to. -/
inductive Resume where
  /-- DEO: that was the last access. -/
  | writeDone
  /-- DEO2: the low byte `v` is still to be written to port `p`. -/
  | writeNext (p : Byte) (v : Byte)
  /-- DEI: the byte returned is pushed. -/
  | readByte (ret : Bool)
  /-- DEI2: the byte returned is the high byte; port `p` is read next. -/
  | readHi (ret : Bool) (p : Byte)
  /-- DEI2: the byte returned is the low byte; the short is pushed. -/
  | readLo (ret : Bool) (hi : Byte)
deriving DecidableEq, Repr

/-- A call of an external handler: the port it is registered at, the rest of the instruction that
called it, and whether that instruction moved the program counter over 0xFFFF (R410). -/
structure HandlerCall where
  port : Byte
  resume : Resume
  wrapped : Bool
deriving DecidableEq, Repr

/-- A call of the host (R930). -/
inductive HostCall where
  /-- `run(a)` (R400) -/
  | run (a : Short)
  /-- `render(buf)`, with what the host's buffer holds before the call (R800) -/
  | render (buf : FrameBuffer)
  /-- the bulk load of `image` at `off` (R951) -/
  | load (off : Short) (image : List Byte)
deriving DecidableEq, Repr

/-- What executes next (R108, R803, R970). -/
inductive Phase where
  /-- The host is in control. -/
  | idle
  /-- The innermost invocation executes at `pc`. -/
  | run
  /-- The renderer stands before a step of a frame. -/
  | render (pt : RenderPoint)
  /-- An external device handler executes inside an instruction (R702, R710). -/
  | handler (h : HandlerCall)
deriving DecidableEq, Repr

/-- A suspended caller of an invocation and the point where it goes on (R108). The host is the caller
of an invocation with no caller on the list. -/
inductive Caller where
  /-- The renderer, which called a blank vector. -/
  | render (pt : RenderPoint)
  /-- An external handler, with the program counter of the invocation whose instruction called it. -/
  | handler (h : HandlerCall) (pc : Short)
deriving DecidableEq, Repr

/-- The result of an invocation (R400). -/
inductive RunResult where
  /-- 0: halted. -/
  | halted
  /-- 1: ran off without halt; advisory, no fault (R410, R900). -/
  | ranOff
deriving DecidableEq, Repr

/-- The machine. STATE IS PLAIN DATA. -/
structure State where
  /-- main memory, 65536 bytes (R101) -/
  mem : Memory
  /-- working stack (R102) -/
  wst : Stack
  /-- return stack (R102) -/
  rst : Stack
  /-- device register file, 256 bytes (R109) -/
  dev : Bank 8 Byte
  /-- VDP registers, 16 of 16 bits (R111, R112) -/
  vreg : Bank 4 Short
  /-- palette, 64 entries of 16 bits (R119) -/
  cram : Bank 6 Short
  /-- palette cache, 64 RGBA words (R120) -/
  pcache : Bank 6 Pixel
  /-- video memory, 65536 bytes (R121) -/
  vram : Memory
  /-- font memory, 1024 bytes (R122) -/
  cgram : Memory
  /-- sprite row cache, 32 entries and the sentinel (R123) -/
  scache : Regs 33 SpriteSlot
  /-- program counter of the innermost invocation (R107) -/
  pc : Short
  /-- what executes next (R108) -/
  phase : Phase
  /-- the suspended callers, innermost first (R108) -/
  callers : List Caller
  /-- the result of the invocation that ended last (R400) -/
  lastResult : Option RunResult
  /-- the output buffer of the last `render` call, pixel (x, y) at y * 320 + x (R124, R800) -/
  buf : FrameBuffer
  /-- the model's own: the host's calls still to come, in order (R930, log 8) -/
  hostCalls : List HostCall
  /-- the model's own: the parameters of R11; no step changes them (log 2) -/
  params : Params
  /-- the model's own: the counter free values are applied to (log 7) -/
  free : Nat
deriving DecidableEq, Repr

/-- The machine after startup and before the host's first call (R126, R950): the aggregate all zero, no
invocation, the default parameters. -/
def State.reset : State where
  mem := []
  wst := Stack.reset
  rst := Stack.reset
  dev := Regs.all _ 0
  vreg := Regs.all _ 0
  cram := Regs.all _ 0
  pcache := Regs.all _ 0
  vram := []
  cgram := []
  scache := Regs.all _ SpriteSlot.zero
  pc := 0
  phase := .idle
  callers := []
  lastResult := none
  buf := []
  hostCalls := []
  params := Params.spec
  free := 0

/-! One update per field. There is none for `params`: no step changes the parameters (R110, R703). -/

def State.setMem (s : State) (v : Memory) : State := { s with mem := v }

def State.setWst (s : State) (v : Stack) : State := { s with wst := v }

def State.setRst (s : State) (v : Stack) : State := { s with rst := v }

def State.setDev (s : State) (v : Bank 8 Byte) : State := { s with dev := v }

def State.setVreg (s : State) (v : Bank 4 Short) : State := { s with vreg := v }

def State.setCram (s : State) (v : Bank 6 Short) : State := { s with cram := v }

def State.setPcache (s : State) (v : Bank 6 Pixel) : State := { s with pcache := v }

def State.setVram (s : State) (v : Memory) : State := { s with vram := v }

def State.setCgram (s : State) (v : Memory) : State := { s with cgram := v }

def State.setScache (s : State) (v : Regs 33 SpriteSlot) : State := { s with scache := v }

def State.setPc (s : State) (v : Short) : State := { s with pc := v }

def State.setPhase (s : State) (v : Phase) : State := { s with phase := v }

def State.setCallers (s : State) (v : List Caller) : State := { s with callers := v }

def State.setLastResult (s : State) (v : Option RunResult) : State := { s with lastResult := v }

def State.setBuf (s : State) (v : FrameBuffer) : State := { s with buf := v }

def State.setHostCalls (s : State) (v : List HostCall) : State := { s with hostCalls := v }

def State.setFree (s : State) (v : Nat) : State := { s with free := v }

/-- Why the machine stops with a fault. -/
inductive Fault where
  /-- An external handler asked for a nested `run` beyond the parameter MAX_NEST, which is unbounded by
  default (R412; 93_implementation_defined.md entry 6 allows the stuck state). Raised by the step of a
  handler only, never by an instruction. Safe: the machine stops where the spec gives no more. -/
  | nestLimit
deriving DecidableEq, Repr

/-- Why an instruction has no meaning. -/
inductive Refusal where
  /-- Raised by an arm of exec whose instruction is not modelled yet; no arm raises it now. Safe. -/
  | notModelled (mnemonic : String)
deriving DecidableEq, Repr

/-- One change an external handler makes to the aggregate (R702, R710). Any new aggregate is a list of
them. -/
inductive ExtEffect where
  | mem (a : Short) (v : Byte)
  | stackByte (ret : Bool) (i : Byte) (v : Byte)
  | stackPtr (ret : Bool) (p : Byte)
  | dev (p : Byte) (v : Byte)
  | vreg (i : BitVec 4) (v : Short)
  | cram (i : BitVec 6) (v : Short)
  | pcache (i : BitVec 6) (v : Pixel)
  | vram (a : Short) (v : Byte)
  | cgram (o : BitVec 10) (v : Byte)
  | scache (j : Nat) (e : SpriteSlot)
deriving DecidableEq, Repr, Inhabited

/-- What an external handler does after its changes: start a nested invocation, or return; a read
handler's return value is the byte, a write handler's is ignored (R700, R701, R702). -/
inductive ExtNext where
  | run (a : Short)
  | ret (v : Byte)
deriving DecidableEq, Repr, Inhabited

/-- One turn of an external handler: from its call, or from the end of a nested invocation it started,
to its next call of `run` or its return. -/
structure ExtReply where
  effects : List ExtEffect
  next : ExtNext
deriving DecidableEq, Repr, Inhabited

end Sys2Proof.Machine

namespace Sys2Proof

open Machine

/-- FREE VALUE (log 4), the parameter EXT_HANDLER of R11: what the handler at a port does at its turn
number `n` of the machine's run, in the state it sees. It has no body: nothing can be proved of it. -/
opaque Config.extReply (n : Nat) (dir : BusDir) (port : Byte) (s : State) : ExtReply

end Sys2Proof
end

