-- ==== Sys2Proof/Machine/Ops.lean ====
section
/-! DEFINITION. The named operations over memories, register files, stacks and invocations. -/

namespace Sys2Proof.Machine

/-! ### Sparse memories -/

/-- The value at an address. -/
def Store.read {w : Nat} (m : Store w) (a : Nat) : BitVec w :=
  match m with
  | [] => Store.unlisted
  | c :: rest => if c.1 = a then c.2 else Store.read rest a

/-- List a cell before the first greater address. -/
def Store.place {w : Nat} (m : Store w) (a : Nat) (v : BitVec w) : Store w :=
  match m with
  | [] => [(a, v)]
  | c :: rest => if a < c.1 then (a, v) :: c :: rest else c :: Store.place rest a v

/-- Write one cell: it replaces what was listed there, and the unlisted value is not listed. -/
def Store.write {w : Nat} (m : Store w) (a : Nat) (v : BitVec w) : Store w :=
  if v = Store.unlisted then m.filter (fun c => c.1 != a)
  else Store.place (m.filter (fun c => c.1 != a)) a v

/-- `for i in 0 .. n-1: m[at i] <- val i`, in increasing `i`. -/
def Store.fill {w : Nat} (m : Store w) (n : Nat) (place : Nat → Nat) (val : Nat → BitVec w) : Store w :=
  match n with
  | 0 => m
  | n + 1 => Store.write (Store.fill m n place val) (place n) (val n)

/-- The listed cells of `val 0 .. val (n-1)` laid out from `base`. -/
def Store.cells {w : Nat} (base n : Nat) (val : Nat → BitVec w) : Store w :=
  match n with
  | 0 => []
  | n + 1 => Store.cells base n val ++ if val n = Store.unlisted then [] else [(base + n, val n)]

/-- Replace the `n` cells from `base`: what `Store.fill` does for consecutive addresses, in one pass. -/
def Store.splice {w : Nat} (m : Store w) (base n : Nat) (val : Nat → BitVec w) : Store w :=
  m.filter (fun c => decide (c.1 < base)) ++
    (Store.cells base n val ++ m.filter (fun c => decide (base + n ≤ c.1)))

/-- `ToroidalCopy` (R780): `len` cells of `src` from `soff` to `dst` from `doff`, each side wrapping at
its capacity; a length above the destination's capacity degenerates to a linear copy of all of it. -/
def toroidalCopy {w : Nat} (dst : Store w) (dcap doff : Nat) (src : Store w) (scap soff len : Nat) : Store w :=
  if dcap < len then Store.fill dst dcap (fun i => i) (fun i => src.read ((soff + i) % scap))
  else Store.fill dst len (fun i => (doff + i) % dcap) (fun i => src.read ((soff + i) % scap))

/-- `ToroidalFill` (R781): the same with the cells given by `val`. -/
def toroidalFill {w : Nat} (dst : Store w) (dcap doff len : Nat) (val : Nat → BitVec w) : Store w :=
  if dcap < len then Store.fill dst dcap (fun i => i) val
  else Store.fill dst len (fun i => (doff + i) % dcap) val

/-- `MemRead` (R203): one byte zero-extended, or two bytes big-endian, the second at `a + 1` modulo 65536. -/
def memRead (m : Memory) (short : Bool) (a : Short) : Short :=
  if short then m.read a.toNat ++ m.read (a + 1).toNat else (m.read a.toNat).setWidth 16

/-- `MemWrite` (R203). -/
def memWrite (m : Memory) (short : Bool) (a : Short) (v : Short) : Memory :=
  if short then (m.write a.toNat (hiByte v)).write (a + 1).toNat (loByte v) else m.write a.toNat (loByte v)

/-- `ZpRead` (R204): the second byte at `a + 1` modulo 256. -/
def zpRead (m : Memory) (short : Bool) (a : Byte) : Short :=
  if short then m.read a.toNat ++ m.read (a + 1).toNat else (m.read a.toNat).setWidth 16

/-- `ZpWrite` (R204). -/
def zpWrite (m : Memory) (short : Bool) (a : Byte) (v : Short) : Memory :=
  if short then (m.write a.toNat (hiByte v)).write (a + 1).toNat (loByte v) else m.write a.toNat (loByte v)

/-! ### Register files -/

/-- The element at an index. -/
def Bank.rd {k : Nat} {α : Type} (b : Bank k α) (i : BitVec k) : α :=
  b.cells.get ⟨i.toNat, lt_of_lt_of_eq i.isLt b.len.symm⟩

/-- Write the element at a numbered place; there is none beyond the last. -/
def Regs.put {n : Nat} {α : Type} (b : Regs n α) (i : Nat) (v : α) : Regs n α :=
  ⟨b.cells.set i v, (List.length_set).trans b.len⟩

/-- Write the element at an index. -/
def Bank.wr {k : Nat} {α : Type} (b : Bank k α) (i : BitVec k) (v : α) : Bank k α := b.put i.toNat v

/-- The registers with a function applied to each. -/
def Regs.mapAll {n : Nat} {α β : Type} (b : Regs n α) (f : α → β) : Regs n β :=
  ⟨b.cells.map f, (List.length_map f).trans b.len⟩

/-! ### Stacks (R404, R405, R407) -/

/-- `push(X, 1, v)`: the byte goes to the free slot, the pointer wraps modulo 256 (R404). -/
def Stack.push1 (x : Stack) (v : Byte) : Stack := ⟨x.dat.wr x.ptr v, x.ptr + 1⟩

/-- `push(X, n, v)`: the more significant byte first (R404); in byte mode the low byte of `v` alone. -/
def Stack.push (x : Stack) (short : Bool) (v : Short) : Stack :=
  if short then (x.push1 (hiByte v)).push1 (loByte v) else x.push1 (loByte v)

/-- `pop(X, 1)`: the pointer wraps modulo 256, the slot is not cleared (R405). -/
def Stack.pop1 (x : Stack) : Byte × Stack := (x.dat.rd (x.ptr - 1), ⟨x.dat, x.ptr - 1⟩)

/-- `pop(X, n)`: the less significant byte first (R405); a byte is zero-extended. -/
def Stack.pop (x : Stack) (short : Bool) : Short × Stack :=
  if short then
    let lo := x.pop1
    let hi := lo.2.pop1
    (hi.1 ++ lo.1, hi.2)
  else
    let v := x.pop1
    (v.1.setWidth 16, v.2)

/-- The pushes of phase 5, deepest first (R406). -/
def Stack.pushAll (x : Stack) (short : Bool) (vs : List Short) : Stack :=
  vs.foldl (fun y v => y.push short v) x

/-- The keep restore of phase 3: with k = 1 the pointer of `before` comes back (R407). -/
def Stack.keepRestore (keep : Bool) (before after : Stack) : Stack :=
  if keep then ⟨after.dat, before.ptr⟩ else after

/-- The stack selected by opcode bit 6, or by its complement for the other one (R105, R302). -/
def State.stack (s : State) (ret : Bool) : Stack := if ret then s.rst else s.wst

/-- Replace the selected stack. -/
def State.setStack (s : State) (ret : Bool) (x : Stack) : State := if ret then s.setRst x else s.setWst x

/-- Move the program counter past `n` bytes, wrapping modulo 65536 (R107, R401). -/
def State.advance (s : State) (n : Short) : State := s.setPc (s.pc + n)

/-! ### Invocations: entry of a vector or a nested run, and the return from it (R400, R904, R905) -/

/-- `Run(a)` on behalf of a suspended caller, and by the host when there is none: a new program counter
and nothing else; no state is saved on a stack or switched (R400, R904). -/
def State.enter (s : State) (caller : List Caller) (a : Short) : State :=
  ((s.setCallers (caller ++ s.callers)).setPc a).setPhase .run

/-- The innermost invocation ends with a result and its caller goes on; the aggregate stays as the
invocation left it (R412, R450, R905). A vector's result is ignored by the renderer (R801, R805). -/
def State.leave (s : State) (r : RunResult) : State :=
  match s.callers with
  | [] => (s.setLastResult (some r)).setPhase .idle
  | .render pt :: rest => ((s.setLastResult (some r)).setCallers rest).setPhase (.render pt)
  | .handler h pc :: rest =>
    (((s.setLastResult (some r)).setCallers rest).setPc pc).setPhase (.handler h)

/-- An instruction that moved the program counter over 0xFFFF is complete: RUN_OFF decides whether the
invocation ends with result 1 (R410). Where both are admitted the choice is a free value (log 12). -/
def State.runOffPoint (s : State) : State :=
  match s.params.runOff with
  | .never => s
  | .alwaysAtWrap => s.leave .ranOff
  | .mayAtWrap =>
    if Config.runOffChoice s.free then (s.setFree (s.free + 1)).leave .ranOff else s.setFree (s.free + 1)

end Sys2Proof.Machine
end

