-- ==== Sys2Proof/Machine/Flags.lean ====
section
/-! DEFINITION. There is no flag register (10_state.md R106): a comparison pushes a boolean byte and a
conditional jump pops one. -/

namespace Sys2Proof.Machine

/-- The boolean a comparison pushes: 0x01 for true, 0x00 for false (R513). -/
def boolByte (b : Bool) : Short := if b then 0x0001 else 0x0000

/-- The truth of a condition byte: any non-zero byte is true (R451, R601). -/
def condition (c : Short) : Bool := c != 0

end Sys2Proof.Machine
end

