-- ==== Sys2Proof/Machine/Operands.lean ====
section
/-! DEFINITION. The operand forms: pops and pushes in the phases of R406, immediates (R305, R306), jump
targets (R604) and effective addresses (R650). Values of both widths are shorts: a byte operand is
zero-extended when popped and a byte result is the low byte when pushed, which is arithmetic modulo
2^(8W) (R403, R513). -/

namespace Sys2Proof.Machine

/-- Phases 1 to 5 of R406 for one operand: `( a -- results )`. -/
def withOne (m : Mode) (results : Short → List Short) (s : State) : State :=
  let x := s.stack m.ret
  let a := x.pop m.short
  (s.advance 1).setStack m.ret ((Stack.keepRestore m.keep x a.2).pushAll m.short (results a.1))

/-- Phases 1 to 5 of R406 for two operands, `b` on top: `( a b -- results )`. -/
def withTwo (m : Mode) (results : Short → Short → List Short) (s : State) : State :=
  let x := s.stack m.ret
  let b := x.pop m.short
  let a := b.2.pop m.short
  (s.advance 1).setStack m.ret ((Stack.keepRestore m.keep x a.2).pushAll m.short (results a.1 b.1))

/-- Phases 1 to 5 of R406 for three operands, `c` on top: `( a b c -- results )`. -/
def withThree (m : Mode) (results : Short → Short → Short → List Short) (s : State) : State :=
  let x := s.stack m.ret
  let c := x.pop m.short
  let b := c.2.pop m.short
  let a := b.2.pop m.short
  (s.advance 1).setStack m.ret ((Stack.keepRestore m.keep x a.2).pushAll m.short (results a.1 b.1 c.1))

/-- A comparison `( a b -- f )`: the result is one byte in both modes (R307, R509 to R512). -/
def compareTwo (m : Mode) (rel : Short → Short → Bool) (s : State) : State :=
  let x := s.stack m.ret
  let b := x.pop m.short
  let a := b.2.pop m.short
  (s.advance 1).setStack m.ret ((Stack.keepRestore m.keep x a.2).push false (boolByte (rel a.1 b.1)))

/-- `sext_8` of the low byte: the signed byte displacement (R12, R307). -/
def sext8 (d : Short) : Short := (loByte d).signExtend 16

/-- `Target(d)` (R604): relative to the address after the opcode in byte mode, absolute in short mode. -/
def target (short : Bool) (pc d : Short) : Short := if short then d else pc + sext8 d

/-- The effective address of the pc-relative mode (R650, R653): `pc` is the address after the opcode. -/
def relAddr (pc d : Short) : Short := pc + sext8 d

/-- `base_addr` of an immediate jump at address `a` (R306). -/
def dispBase (c : Params) (a : Short) : Short :=
  match c.immRelBase with
  | .afterOpcode => a + 1
  | .afterOperand => a + 3

/-- The shift of SFT (R508): right by the low nibble of `n`, then left by the high nibble. -/
def nibbleShift (a n : Short) : Short :=
  (a >>> (n.extractLsb' 0 4).toNat) <<< (n.extractLsb' 4 4).toNat

/-- Unsigned truncating division; division by zero yields zero (R504, R513). -/
def divide (a b : Short) : Short := if b = 0 then 0 else a / b

end Sys2Proof.Machine
end

