-- ==== Sys2Proof/Machine/Alu.lean ====
section
/-! DEFINITION. Arithmetic, bitwise and comparison operations (42_alu.md): unsigned, modulo 2^(8W)
(R513). -/

namespace Sys2Proof.Machine

/-- INC `( a -- a+1 )` (R500). -/
def execInc (m : Mode) (s : State) : Host.Outcome State Fault Refusal := .next (withOne m (fun a => [a + 1]) s)

/-- EQU `( a b -- f )` (R509). -/
def execEqu (m : Mode) (s : State) : Host.Outcome State Fault Refusal := .next (compareTwo m (fun a b => a == b) s)

/-- NEQ `( a b -- f )` (R510). -/
def execNeq (m : Mode) (s : State) : Host.Outcome State Fault Refusal := .next (compareTwo m (fun a b => a != b) s)

/-- GTH `( a b -- f )`, unsigned a > b (R511). -/
def execGth (m : Mode) (s : State) : Host.Outcome State Fault Refusal := .next (compareTwo m (fun a b => b.ult a) s)

/-- LTH `( a b -- f )`, unsigned a < b (R512). -/
def execLth (m : Mode) (s : State) : Host.Outcome State Fault Refusal := .next (compareTwo m (fun a b => a.ult b) s)

/-- ADD `( a b -- a+b )` (R501). -/
def execAdd (m : Mode) (s : State) : Host.Outcome State Fault Refusal := .next (withTwo m (fun a b => [a + b]) s)

/-- SUB `( a b -- a-b )` (R502). -/
def execSub (m : Mode) (s : State) : Host.Outcome State Fault Refusal := .next (withTwo m (fun a b => [a - b]) s)

/-- MUL `( a b -- a*b )` (R503). -/
def execMul (m : Mode) (s : State) : Host.Outcome State Fault Refusal := .next (withTwo m (fun a b => [a * b]) s)

/-- DIV `( a b -- a/b )` (R504). -/
def execDiv (m : Mode) (s : State) : Host.Outcome State Fault Refusal := .next (withTwo m (fun a b => [divide a b]) s)

/-- AND `( a b -- a&b )` (R505). -/
def execAnd (m : Mode) (s : State) : Host.Outcome State Fault Refusal := .next (withTwo m (fun a b => [a &&& b]) s)

/-- ORA `( a b -- a|b )` (R506). -/
def execOra (m : Mode) (s : State) : Host.Outcome State Fault Refusal := .next (withTwo m (fun a b => [a ||| b]) s)

/-- EOR `( a b -- a^b )` (R507). -/
def execEor (m : Mode) (s : State) : Host.Outcome State Fault Refusal := .next (withTwo m (fun a b => [a ^^^ b]) s)

/-- SFT `( a n -- c )` (R508): the shift count is one byte in both modes. -/
def execSft (m : Mode) (s : State) : Host.Outcome State Fault Refusal :=
  let x := s.stack m.ret
  let n := x.pop false
  let a := n.2.pop m.short
  .next ((s.advance 1).setStack m.ret ((Stack.keepRestore m.keep x a.2).push m.short (nibbleShift a.1 n.1)))

end Sys2Proof.Machine
end

