-- ==== Sys2Proof/Machine/Control.lean ====
section
/-! DEFINITION. Control transfer and stack transfer (44_control.md). -/

namespace Sys2Proof.Machine

/-- JMP `( d -- )` (R600). -/
def execJmp (m : Mode) (s : State) : Host.Outcome State Fault Refusal :=
  let x := s.stack m.ret
  let d := x.pop m.short
  .next ((s.setStack m.ret (Stack.keepRestore m.keep x d.2)).setPc (target m.short (s.pc + 1) d.1))

/-- JCN `( c d -- )` (R601): the condition is one byte in both modes. -/
def execJcn (m : Mode) (s : State) : Host.Outcome State Fault Refusal :=
  let x := s.stack m.ret
  let d := x.pop m.short
  let c := d.2.pop false
  .next ((s.setStack m.ret (Stack.keepRestore m.keep x c.2)).setPc
    (if condition c.1 then target m.short (s.pc + 1) d.1 else s.pc + 1))

/-- JSR `( d -- )` (R602): the return address, always two bytes, goes onto the other stack. -/
def execJsr (m : Mode) (s : State) : Host.Outcome State Fault Refusal :=
  let x := s.stack m.ret
  let d := x.pop m.short
  .next (((s.setStack m.ret (Stack.keepRestore m.keep x d.2)).setStack (!m.ret)
    ((s.stack (!m.ret)).push true (s.pc + 1))).setPc (target m.short (s.pc + 1) d.1))

/-- STH `( a -- )` on the active stack, `( -- a )` on the other one (R603). -/
def execSth (m : Mode) (s : State) : Host.Outcome State Fault Refusal :=
  let x := s.stack m.ret
  let a := x.pop m.short
  .next (((s.advance 1).setStack m.ret (Stack.keepRestore m.keep x a.2)).setStack (!m.ret)
    ((s.stack (!m.ret)).push m.short a.1))

end Sys2Proof.Machine
end

