-- ==== Sys2Proof/Machine/Vdp.lean ====
section
/-! DEFINITION. The VDP command processor (47_vdp_commands.md): the write and the read protocol of the
port pair. -/

namespace Sys2Proof.Machine

/-! ### The register index map (R112) -/

def VReg.cmd : BitVec 4 := 0
def VReg.mode : BitVec 4 := 1
def VReg.vblankVec : BitVec 4 := 5
def VReg.hblankVec : BitVec 4 := 6
def VReg.hblankLine : BitVec 4 := 7
def VReg.textBase : BitVec 4 := 8
def VReg.spriteBase : BitVec 4 := 9
def VReg.planeABase : BitVec 4 := 10
def VReg.planeBBase : BitVec 4 := 11
def VReg.scrollAX : BitVec 4 := 12
def VReg.scrollAY : BitVec 4 := 13
def VReg.scrollBX : BitVec 4 := 14
def VReg.scrollBY : BitVec 4 := 15

/-- Read a VDP register. -/
def State.vr (s : State) (i : BitVec 4) : Short := s.vreg.rd i

/-- Write a VDP register: all 16 bits store what is written (R111). -/
def State.setVr (s : State) (i : BitVec 4) (v : Short) : State := s.setVreg (s.vreg.wr i v)

/-! ### Fields of a pending command (R751) -/

/-- `R`, bits 11:8. -/
def cmdR (cmd : Short) : BitVec 4 := cmd.extractLsb' 8 4

/-- `R2`, bits 15:12. -/
def cmdR2 (cmd : Short) : BitVec 4 := cmd.extractLsb' 12 4

/-- `E`, bits 13:8. -/
def cmdE (cmd : Short) : BitVec 6 := cmd.extractLsb' 8 6

/-- The write selectors (R755). -/
inductive WriteOp where
  | clrReg | wrRegLo | wrRegHi | wrReg16
  | clrPal | wrPalLo | wrPalHi | wrPal16
  | clrVram | wrVram | copyVram | fillVramConst | fillVramPattern
  | copyCgram
  | reserved
deriving DecidableEq, Repr

/-- The selector `cmd[4:0]` (R751, R755); 0x0E to 0x1F are reserved (R774). -/
def writeOp (cmd : Short) : WriteOp :=
  match (cmd.extractLsb' 0 5).toNat with
  | 0 => .clrReg
  | 1 => .wrRegLo
  | 2 => .wrRegHi
  | 3 => .wrReg16
  | 4 => .clrPal
  | 5 => .wrPalLo
  | 6 => .wrPalHi
  | 7 => .wrPal16
  | 8 => .clrVram
  | 9 => .wrVram
  | 10 => .copyVram
  | 11 => .fillVramConst
  | 12 => .fillVramPattern
  | 13 => .copyCgram
  | _ => .reserved

/-- `DirtyBit(sel)` (R754). -/
def dirtyBit (op : WriteOp) : Short :=
  match op with
  | .clrReg | .wrRegLo | .wrRegHi | .wrReg16 => 0x1000
  | .clrPal | .wrPalLo | .wrPalHi | .wrPal16 => 0x2000
  | .clrVram | .wrVram | .copyVram | .fillVramConst | .fillVramPattern => 0x4000
  | .copyCgram => 0x8000
  | .reserved => 0x0000

/-- `v` with its low byte replaced. -/
def withLo (v : Short) (b : Byte) : Short := hiByte v ++ b

/-- `v` with its high byte replaced. -/
def withHi (v : Short) (b : Byte) : Short := b ++ loByte v

/-- Byte `i` of the repeat pattern: high byte first, restarting with the fill (R772). -/
def patternByte (pat : Short) (i : Nat) : Byte := if i % 2 = 0 then hiByte pat else loByte pat

/-- The operation of a write selector with the command and its operand (R760 to R774). -/
def vdpOp (op : WriteOp) (cmd value : Short) (s : State) : State :=
  match op with
  | .clrReg => s.setVr (cmdR cmd) 0
  | .wrRegLo => s.setVr (cmdR cmd) (withLo (s.vr (cmdR cmd)) (loByte value))
  | .wrRegHi => s.setVr (cmdR cmd) (withHi (s.vr (cmdR cmd)) (loByte value))
  | .wrReg16 => s.setVr (cmdR cmd) value
  | .clrPal => s.setCram (s.cram.wr (cmdE cmd) 0)
  | .wrPalLo => s.setCram (s.cram.wr (cmdE cmd) (withLo (s.cram.rd (cmdE cmd)) (loByte value)))
  | .wrPalHi => s.setCram (s.cram.wr (cmdE cmd) (withHi (s.cram.rd (cmdE cmd)) (loByte value)))
  | .wrPal16 => s.setCram (s.cram.wr (cmdE cmd) value)
  | .clrVram => s.setVram (s.vram.write value.toNat 0)
  | .wrVram => s.setVram (s.vram.write (s.vr (cmdR cmd)).toNat (loByte value))
  | .copyVram =>
    s.setVram (toroidalCopy s.vram 65536 (s.vr (cmdR2 cmd)).toNat s.mem 65536 (s.vr (cmdR cmd)).toNat value.toNat)
  | .fillVramConst =>
    s.setVram (toroidalFill s.vram 65536 (s.vr (cmdR cmd)).toNat value.toNat (fun _ => 0))
  | .fillVramPattern =>
    s.setVram (toroidalFill s.vram 65536 (s.vr (cmdR cmd)).toNat value.toNat (patternByte (s.vr (cmdR2 cmd))))
  | .copyCgram => s.setCgram (toroidalCopy s.cgram 1024 0 s.mem 65536 (s.vr (cmdR cmd)).toNat 1024)
  | .reserved => s

/-- `Execute(value)` (R753): the operation, then CMD is reset, then the dirty bit is set. -/
def vdpExecute (value : Short) (s : State) : State :=
  let cmd := s.vr VReg.cmd
  let s1 := (vdpOp (writeOp cmd) cmd value s).setVr VReg.cmd 0
  s1.setVr VReg.mode (s1.vr VReg.mode ||| dirtyBit (writeOp cmd))

/-- `VdpWrite()` (R750): latch when no command is pending (R752), else execute. -/
def vdpWrite (s : State) : State :=
  let value := s.dev.rd s.params.vdpPort ++ s.dev.rd (s.params.vdpPort + 1)
  if s.vr VReg.cmd = 0 then s.setVr VReg.cmd value else vdpExecute value s

/-- The result of a read selector `cmd[3:0]` (R791 to R794). -/
def vdpResult (s : State) : Short :=
  let cmd := s.vr VReg.cmd
  match (cmd.extractLsb' 0 4).toNat with
  | 0 => s.vr (cmdR cmd)
  | 1 => s.cram.rd (cmdE cmd)
  | 2 => (s.vram.read (s.vr (cmdR cmd)).toNat).setWidth 16
  | _ => 0

/-- `VdpRead()` (R790): the result goes to the port pair directly, CMD is reset, and the byte returned
is the one at `P`. -/
def vdpRead (s : State) : Byte × State :=
  let d := (s.dev.wr s.params.vdpPort (hiByte (vdpResult s))).wr (s.params.vdpPort + 1) (loByte (vdpResult s))
  (d.rd s.params.vdpPort, (s.setDev d).setVr VReg.cmd 0)

end Sys2Proof.Machine
end

