-- ==== Sys2Proof/Machine/Bus.lean ====
section
/-! DEFINITION. The Device Bus (46_device_bus.md): the dispatch tables, the two accesses, and the point
inside an instruction where an external handler runs. -/

namespace Sys2Proof.Machine

/-- What is registered at a port in one direction (R703, R711). -/
inductive Handler where
  /-- nothing: plain storage (R706) -/
  | raw
  /-- the VDP's (R707) -/
  | vdp
  /-- an external device's (R710) -/
  | ext
deriving DecidableEq, Repr

/-- The read dispatch table: the VDP at `P` (R707), external devices at their ports. -/
def readHandler (c : Params) (p : Byte) : Handler :=
  if p = c.vdpPort then .vdp else if p ∈ c.extReadPorts then .ext else .raw

/-- The write dispatch table: the VDP at `P + 1` (R707), external devices at their ports. -/
def writeHandler (c : Params) (p : Byte) : Handler :=
  if p = c.vdpPort + 1 then .vdp else if p ∈ c.extWritePorts then .ext else .raw

/-- An external handler is called at a port; the instruction goes on with `resume` when it returns
(R409, R702). -/
def State.callHandler (s : State) (p : Byte) (resume : Resume) : State := s.setPhase (.handler ⟨p, resume, false⟩)

/-- `DevWrite(p, v)` (R701): the byte is stored, then the handler runs. -/
def devWrite (p v : Byte) (resume : Resume) (s : State) : State :=
  let s1 := s.setDev (s.dev.wr p v)
  match writeHandler s.params p with
  | .raw => s1
  | .vdp => vdpWrite s1
  | .ext => s1.callHandler p resume

/-- The two bus writes of a short (R705): `hi` to `p`, then `lo` to `p + 1` modulo 256. -/
def devWrite2 (p hi lo : Byte) (s : State) : State :=
  if writeHandler s.params p = .ext then devWrite p hi (.writeNext (p + 1) lo) s
  else devWrite (p + 1) lo .writeDone (devWrite p hi .writeDone s)

/-- `DevRead(p)` (R700) of a port without an external handler. -/
def devRead (p : Byte) (s : State) : Byte × State :=
  match readHandler s.params p with
  | .vdp => vdpRead s
  | _ => (s.dev.rd p, s)

/-- The one bus read of a byte DEI and its push (R704). -/
def devReadByte (ret : Bool) (p : Byte) (s : State) : State :=
  if readHandler s.params p = .ext then s.callHandler p (.readByte ret)
  else
    let r := devRead p s
    r.2.setStack ret ((r.2.stack ret).push false (r.1.setWidth 16))

/-- The second bus read of DEI2 and the push of the short (R704). -/
def devReadLo (ret : Bool) (hi p : Byte) (s : State) : State :=
  if readHandler s.params p = .ext then s.callHandler p (.readLo ret hi)
  else
    let r := devRead p s
    r.2.setStack ret ((r.2.stack ret).push true (hi ++ r.1))

/-- The two bus reads of DEI2 (R704): `p`, then `p + 1` modulo 256. -/
def devRead2 (ret : Bool) (p : Byte) (s : State) : State :=
  if readHandler s.params p = .ext then s.callHandler p (.readHi ret (p + 1))
  else
    let r := devRead p s
    devReadLo ret r.1 (p + 1) r.2

/-- The rest of the instruction when its external handler returns `v` (R408, R704, R705): a push goes
where the handler left the pointer. -/
def resumeInstr (resume : Resume) (v : Byte) (s : State) : State :=
  match resume with
  | .writeDone => s
  | .writeNext p lo => devWrite p lo .writeDone s
  | .readByte ret => s.setStack ret ((s.stack ret).push false (v.setWidth 16))
  | .readHi ret p => devReadLo ret v p s
  | .readLo ret hi => s.setStack ret ((s.stack ret).push true (hi ++ v))

/-- An instruction has done all it can in this step. Where it moved the program counter over 0xFFFF,
RUN_OFF is consulted once it is complete: now, or after the handler it waits for (R410). -/
def State.settle (s : State) (wrapped : Bool) : State :=
  if wrapped then
    match s.phase with
    | .handler h => s.setPhase (.handler ⟨h.port, h.resume, true⟩)
    | _ => s.runOffPoint
  else s

/-- The direction of the access a handler serves. -/
def resumeDir (r : Resume) : BusDir :=
  match r with
  | .writeDone | .writeNext _ _ => .write
  | .readByte _ | .readHi _ _ | .readLo _ _ => .read

/-- One change of an external handler to the aggregate (R702, R710). -/
def State.apply (s : State) (e : ExtEffect) : State :=
  match e with
  | .mem a v => s.setMem (s.mem.write a.toNat v)
  | .stackByte ret i v => s.setStack ret ⟨(s.stack ret).dat.wr i v, (s.stack ret).ptr⟩
  | .stackPtr ret p => s.setStack ret ⟨(s.stack ret).dat, p⟩
  | .dev p v => s.setDev (s.dev.wr p v)
  | .vreg i v => s.setVreg (s.vreg.wr i v)
  | .cram i v => s.setCram (s.cram.wr i v)
  | .pcache i v => s.setPcache (s.pcache.wr i v)
  | .vram a v => s.setVram (s.vram.write a.toNat v)
  | .cgram o v => s.setCgram (s.cgram.write o.toNat v)
  | .scache j e => s.setScache (s.scache.put j e)

/-- How many invocations in progress were started by handlers (R412). -/
def nestDepth (callers : List Caller) : Nat :=
  match callers with
  | [] => 0
  | .render _ :: rest => nestDepth rest
  | .handler _ _ :: rest => nestDepth rest + 1

/-- MAX_NEST admits one more nested invocation (R412). -/
def mayNest (s : State) : Bool :=
  match s.params.maxNest with
  | none => true
  | some n => decide (nestDepth s.callers < n)

/-- One turn of an external handler (R702, R710): its changes, then a nested invocation (R412) or its
return, after which the instruction that called it goes on (R409). -/
def handlerStep (h : HandlerCall) (s : State) : Host.Outcome State Fault Refusal :=
  let reply := Config.extReply s.free (resumeDir h.resume) h.port s
  let s1 := reply.effects.foldl State.apply (s.setFree (s.free + 1))
  match reply.next with
  | .run a => if mayNest s1 then .next (s1.enter [.handler h s1.pc] a) else .fault .nestLimit
  | .ret v => .next ((resumeInstr h.resume v (s1.setPhase .run)).settle h.wrapped)

end Sys2Proof.Machine
end

