-- ==== Sys2Proof/Machine/DeviceIO.lean ====
section
/-! DEFINITION. DEI and DEO (46_device_bus.md R704, R705). The keep restore precedes the bus accesses
(R408). -/

namespace Sys2Proof.Machine

/-- DEI `( p -- v )` (R704). -/
def execDei (m : Mode) (s : State) : Host.Outcome State Fault Refusal :=
  let x := s.stack m.ret
  let p := x.pop false
  let s1 := (s.advance 1).setStack m.ret (Stack.keepRestore m.keep x p.2)
  .next (if m.short then devRead2 m.ret (loByte p.1) s1 else devReadByte m.ret (loByte p.1) s1)

/-- DEO `( v p -- )` (R705). -/
def execDeo (m : Mode) (s : State) : Host.Outcome State Fault Refusal :=
  let x := s.stack m.ret
  let p := x.pop false
  let v := p.2.pop m.short
  let s1 := (s.advance 1).setStack m.ret (Stack.keepRestore m.keep x v.2)
  .next (if m.short then devWrite2 (loByte p.1) (hiByte v.1) (loByte v.1) s1
    else devWrite (loByte p.1) (loByte v.1) .writeDone s1)

end Sys2Proof.Machine
end

