-- ==== Sys2Proof/Machine/Immediate.lean ====
section
/-! DEFINITION. Base operation 0: halt and the immediate forms (41_immediate.md). The program counter is
the opcode's address on entry. -/

namespace Sys2Proof.Machine

/-- BRK (R450): the innermost invocation ends with result 0. -/
def execBrk (s : State) : Host.Outcome State Fault Refusal := .next ((s.advance 1).leave .halted)

/-- JCI (R451): the condition byte of the working stack is consumed whether or not the jump is taken. -/
def execJci (disp : Short) (s : State) : Host.Outcome State Fault Refusal :=
  let c := s.wst.pop false
  .next ((s.setWst c.2).setPc (if condition c.1 then dispBase s.params s.pc + disp else s.pc + 3))

/-- JMI (R452). -/
def execJmi (disp : Short) (s : State) : Host.Outcome State Fault Refusal :=
  .next (s.setPc (dispBase s.params s.pc + disp))

/-- JSI (R453): the return address is the address after the operand, pushed onto the return stack. -/
def execJsi (disp : Short) (s : State) : Host.Outcome State Fault Refusal :=
  .next ((s.setRst (s.rst.push true (s.pc + 3))).setPc (dispBase s.params s.pc + disp))

/-- LIT (R454). -/
def execLit (v : Byte) (s : State) : Host.Outcome State Fault Refusal :=
  .next ((s.advance 2).setWst (s.wst.push false (v.setWidth 16)))

/-- LIT2 (R454). -/
def execLit2 (v : Short) (s : State) : Host.Outcome State Fault Refusal :=
  .next ((s.advance 3).setWst (s.wst.push true v))

/-- LITr (R454). -/
def execLitr (v : Byte) (s : State) : Host.Outcome State Fault Refusal :=
  .next ((s.advance 2).setRst (s.rst.push false (v.setWidth 16)))

/-- LIT2r (R454). -/
def execLit2r (v : Short) (s : State) : Host.Outcome State Fault Refusal :=
  .next ((s.advance 3).setRst (s.rst.push true v))

end Sys2Proof.Machine
end

