-- ==== Sys2Proof/Machine/MemoryAccess.lean ====
section
/-! DEFINITION. Loads and stores (45_memory_access.md). Addresses have a fixed width in both modes
(R307, R650). -/

namespace Sys2Proof.Machine

/-- A load: the address operand is popped at its own width, `W` bytes are read and pushed (R650). -/
def loadOp (m : Mode) (wideAddr : Bool) (value : Short → Short) (s : State) : State :=
  let x := s.stack m.ret
  let a := x.pop wideAddr
  (s.advance 1).setStack m.ret ((Stack.keepRestore m.keep x a.2).push m.short (value a.1))

/-- A store: the address operand is on top, the value of `W` bytes below it (R650). -/
def storeOp (m : Mode) (wideAddr : Bool) (store : Short → Short → Memory) (s : State) : State :=
  let x := s.stack m.ret
  let a := x.pop wideAddr
  let v := a.2.pop m.short
  ((s.advance 1).setStack m.ret (Stack.keepRestore m.keep x v.2)).setMem (store a.1 v.1)

/-- LDZ `( a -- v )` (R651). -/
def execLdz (m : Mode) (s : State) : Host.Outcome State Fault Refusal :=
  .next (loadOp m false (fun a => zpRead s.mem m.short (loByte a)) s)

/-- STZ `( v a -- )` (R652). -/
def execStz (m : Mode) (s : State) : Host.Outcome State Fault Refusal :=
  .next (storeOp m false (fun a v => zpWrite s.mem m.short (loByte a) v) s)

/-- LDR `( d -- v )` (R653). -/
def execLdr (m : Mode) (s : State) : Host.Outcome State Fault Refusal :=
  .next (loadOp m false (fun d => memRead s.mem m.short (relAddr (s.pc + 1) d)) s)

/-- STR `( v d -- )` (R654). -/
def execStr (m : Mode) (s : State) : Host.Outcome State Fault Refusal :=
  .next (storeOp m false (fun d v => memWrite s.mem m.short (relAddr (s.pc + 1) d) v) s)

/-- LDA `( a -- v )` (R655). -/
def execLda (m : Mode) (s : State) : Host.Outcome State Fault Refusal :=
  .next (loadOp m true (fun a => memRead s.mem m.short a) s)

/-- STA `( v a -- )` (R656). -/
def execSta (m : Mode) (s : State) : Host.Outcome State Fault Refusal :=
  .next (storeOp m true (fun a v => memWrite s.mem m.short a v) s)

end Sys2Proof.Machine
end

