-- ==== Sys2Proof/Machine/StackOps.lean ====
section
/-! DEFINITION. Stack manipulation (43_stack.md). Results are listed deepest first. -/

namespace Sys2Proof.Machine

/-- POP `( a -- )` (R550). -/
def execPop (m : Mode) (s : State) : Host.Outcome State Fault Refusal := .next (withOne m (fun _ => []) s)

/-- NIP `( a b -- b )` (R551). -/
def execNip (m : Mode) (s : State) : Host.Outcome State Fault Refusal := .next (withTwo m (fun _ b => [b]) s)

/-- SWP `( a b -- b a )` (R552). -/
def execSwp (m : Mode) (s : State) : Host.Outcome State Fault Refusal := .next (withTwo m (fun a b => [b, a]) s)

/-- ROT `( a b c -- b c a )` (R553). -/
def execRot (m : Mode) (s : State) : Host.Outcome State Fault Refusal :=
  .next (withThree m (fun a b c => [b, c, a]) s)

/-- DUP `( a -- a a )` (R554). -/
def execDup (m : Mode) (s : State) : Host.Outcome State Fault Refusal := .next (withOne m (fun a => [a, a]) s)

/-- OVR `( a b -- a b a )` (R555). -/
def execOvr (m : Mode) (s : State) : Host.Outcome State Fault Refusal := .next (withTwo m (fun a b => [a, b, a]) s)

end Sys2Proof.Machine
end

