-- ==== Sys2Proof/Machine/HostSide.lean ====
section
/-! DEFINITION. The host's calls (60_exceptions.md R930, R931), the fetch of an instruction, and where a
program counter wraps. -/

namespace Sys2Proof.Machine

/-- The bulk load (R951): `mem[(off + i) mod 65536] <- image[i]` in increasing `i`. -/
def bulkLoad (m : Memory) (off : Nat) (image : List Byte) : Memory :=
  match image with
  | [] => m
  | b :: rest => bulkLoad (m.write (off % 65536) b) (off + 1) rest

/-- A call of the host takes effect (R930): `run` starts an invocation with no suspended caller, `render`
starts a frame on the buffer given, the load copies its image. -/
def State.serve (s : State) (c : HostCall) : State :=
  match c with
  | .run a => s.enter [] a
  | .render buf => (s.setBuf buf).setPhase (.render .vblank)
  | .load off image => s.setMem (bulkLoad s.mem off.toNat image)

/-- The host is in control: its next call, if there is one (R931); a machine no one calls does nothing
(R911). -/
def hostStep (s : State) : State :=
  match s.hostCalls with
  | [] => s
  | c :: rest => (s.setHostCalls rest).serve c

/-- The byte at an address counted from the program counter (R401). -/
def fetchByte (s : State) (n : Short) : Byte := s.mem.read (s.pc + n).toNat

/-- The instruction at the program counter: opcode and immediate bytes are read from memory as it stands
now (R214, R401, R402). -/
def fetchInstr (s : State) : Instr := decodeOp (fetchByte s 0) (fetchByte s 1) (fetchByte s 2)

/-- The fetch or an immediate read of `i` at address `a` moves the program counter from 0xFFFF to 0x0000,
and `i` does not itself end the invocation (R410). -/
def fetchWraps (i : Instr) (a : Short) : Bool := i != .brk && decide (65535 < a.toNat + instrLength i)

end Sys2Proof.Machine
end

