-- ==== Sys2Proof/Machine/Renderer.lean ====
section
/-! DEFINITION. The VDP frame renderer (48_vdp_renderer.md). Addresses and coordinates are computed as
natural numbers and taken modulo the size the rule names. -/

namespace Sys2Proof.Machine

/-! ### VRAM words and patterns (R825 to R829) -/

/-- A VRAM byte; every address is taken modulo 65536 (R825). -/
def vramByte (vram : Memory) (a : Nat) : Byte := vram.read (a % 65536)

/-- `VW(a)`: a VRAM word, big-endian (R825). -/
def vramWord (vram : Memory) (a : Nat) : Short := vramByte vram a ++ vramByte vram (a + 1)

/-- `PatternPixel(n, tx, ty)` (R827): the high nibble is the even column. -/
def patternPixel (vram : Memory) (n tx ty : Nat) : BitVec 4 :=
  let b := vramByte vram (32 * n + 4 * ty + tx / 2)
  if tx % 2 = 0 then b.extractLsb' 4 4 else b.extractLsb' 0 4

/-- PRI of a tilemap entry or pattern/flag word (R828). -/
def cellPri (e : Short) : Bool := e.getLsbD 15

/-- ROW (R828). -/
def cellRow (e : Short) : BitVec 2 := e.extractLsb' 13 2

/-- VFLIP (R828). -/
def cellVflip (e : Short) : Bool := e.getLsbD 12

/-- HFLIP (R828). -/
def cellHflip (e : Short) : Bool := e.getLsbD 11

/-- PID (R828). -/
def cellPid (e : Short) : Nat := (e.extractLsb' 0 11).toNat

/-- An opaque layer pixel: palette index and priority (R829). -/
structure LayerPixel where
  index : BitVec 6
  pri : Bool
deriving DecidableEq, Repr

/-- A nibble of an entry's pattern as a layer pixel; 0 is transparent (R827, R829). -/
def layerPixel (e : Short) (v : BitVec 4) : Option LayerPixel :=
  if v = 0 then none else some ⟨cellRow e ++ v, cellPri e⟩

/-! ### Sprites (R810 to R812, R824) -/

/-- Width in pixels from the size/flag word (R811). -/
def spriteW (w1 : Short) : Nat := 8 * ((w1.extractLsb' 10 2).toNat + 1)

/-- Height in pixels (R811). -/
def spriteH (w1 : Short) : Nat := 8 * ((w1.extractLsb' 8 2).toNat + 1)

/-- LINK (R811). -/
def spriteLink (w1 : Short) : Nat := (w1.extractLsb' 0 8).toNat

/-- X or Y: nine bits of its word (R811). -/
def spriteCoord (w : Short) : Nat := (w.extractLsb' 0 9).toNat

/-- `(a - b) mod 512` for a 9-bit `b` (R812, R824). -/
def wrapSub (a b : Nat) : Nat := (a + 512 - b) % 512

/-- Entry `idx` of the sprite attribute list (R811). -/
def spriteEntry (s : State) (idx : Nat) : SpriteSlot :=
  let e := (s.vr VReg.spriteBase).toNat + 8 * idx
  ⟨vramWord s.vram e, vramWord s.vram (e + 2), vramWord s.vram (e + 4), vramWord s.vram (e + 6)⟩

/-- A sprite matches row `y` (R812). -/
def spriteMatch (e : SpriteSlot) (y : Nat) : Bool :=
  decide (cellPid e.w0 ≠ 0) &&
  (decide (spriteCoord e.x < 320) || decide (512 - spriteW e.w1 < spriteCoord e.x)) &&
  decide (wrapSub y (spriteCoord e.y) < spriteH e.w1)

/-- The walk of the sprite list (R810) from entry `idx` with `n` matches cached and at most `fuel`
entries still to examine: the matches in list order. -/
def spriteWalk (s : State) (y : Nat) (fuel idx n : Nat) : List SpriteSlot :=
  match fuel with
  | 0 => []
  | fuel + 1 =>
    let e := spriteEntry s idx
    let hit := if spriteMatch e y then [e] else []
    let link := spriteLink e.w1
    if n + hit.length = Config.spriteSlots then hit
    else if link = 0 ∨ link = idx then hit
    else hit ++ spriteWalk s y fuel link (n + hit.length)

/-- Fill the cache from slot `i` and put the sentinel after it; slots above keep their contents (R810). -/
def storeSlots (c : Regs 33 SpriteSlot) (i : Nat) (found : List SpriteSlot) : Regs 33 SpriteSlot :=
  match found with
  | [] => c.put i SpriteSlot.zero
  | e :: rest => storeSlots (c.put i e) (i + 1) rest

/-- `BuildSpriteCache(y)` (R810). -/
def buildSpriteCache (y : Nat) (s : State) : State :=
  s.setScache (storeSlots s.scache 0 (spriteWalk s y Config.spriteWalk 0 0))

/-- The pixel of one cached sprite at (x, y) (R824). -/
def spriteAt (vram : Memory) (e : SpriteSlot) (x y : Nat) : Option LayerPixel :=
  let w := spriteW e.w1
  let h := spriteH e.w1
  let sx := wrapSub x (spriteCoord e.x)
  let sy := wrapSub y (spriteCoord e.y)
  if w ≤ sx ∨ h ≤ sy then none
  else
    let fx := if cellHflip e.w0 then w - 1 - sx else sx
    let fy := if cellVflip e.w0 then h - 1 - sy else sy
    let pid := (cellPid e.w0 + fy / 8 * (w / 8) + fx / 8) % 2048
    layerPixel e.w0 (patternPixel vram pid (fx % 8) (fy % 8))

/-- The scan of the row's cache up to the sentinel (R824): an opaque priority pixel wins at once, else
the first opaque one. -/
def spriteScan (vram : Memory) (x y : Nat) (slots : List SpriteSlot) (best : Option LayerPixel) : Option LayerPixel :=
  match slots with
  | [] => best
  | e :: rest =>
    if e.w0 = 0 then best
    else
      match spriteAt vram e x y with
      | none => spriteScan vram x y rest best
      | some p =>
        if p.pri then some p
        else spriteScan vram x y rest (match best with | none => some p | some b => some b)

/-- `SpritePixel(x, y)` (R824). -/
def spritePixel (s : State) (x y : Nat) : Option LayerPixel := spriteScan s.vram x y s.scache.cells none

/-! ### Tile planes (R826) -/

/-- `PlanePixel` (R826). -/
def planePixel (vram : Memory) (base scx scy : Short) (x y : Nat) : Option LayerPixel :=
  let px := (x + scx.toNat) % 512
  let py := (y + scy.toNat) % 256
  let e := vramWord vram (base.toNat + 2 * (py / 8 * 64 + px / 8))
  let tx := if cellHflip e then 7 - px % 8 else px % 8
  let ty := if cellVflip e then 7 - py % 8 else py % 8
  layerPixel e (patternPixel vram (cellPid e) tx ty)

/-! ### Text layer (R820 to R822) -/

/-- TEXT_EN, MODE bit 2 (R114). -/
def textEn (mode : Short) : Bool := mode.getLsbD 2

/-- The palette index of the background: BG_ROW with pixel value zero (R833). -/
def bgIndex (mode : Short) : BitVec 6 := mode.extractLsb' 4 2 ++ (0 : BitVec 4)

/-- The text cell of pixel (x, y) (R821). -/
def textCell (s : State) (x y : Nat) : Byte :=
  vramByte s.vram ((s.vr VReg.textBase).toNat + y / 8 * 40 + x / 8)

/-- Invert red, green and blue and keep alpha (R820). -/
def invertIf (b : Bool) (c : Pixel) : Pixel := if b then c ^^^ 0xFFFFFF00 else c

/-- `TextPixel(x, y)` of a non-zero cell `t` (R820, R822). -/
def textPixel (s : State) (t : Byte) (x y : Nat) : Pixel :=
  let row := s.cgram.read (8 * (t.extractLsb' 0 7).toNat + y % 8)
  let bit := row.getLsbD (7 - x % 8)
  invertIf bit (invertIf (t.getLsbD 7) (s.pcache.rd (bgIndex (s.vr VReg.mode))))

/-! ### Priority resolution (R833) -/

/-- The first layer with an opaque priority pixel, else the first with an opaque pixel (R833). -/
def resolve (layers : List (Option LayerPixel)) : Option LayerPixel :=
  match (layers.filterMap id).find? (fun p => p.pri) with
  | some p => some p
  | none => (layers.filterMap id).head?

/-- `Pixel(x, y)` (R833). -/
def pixel (s : State) (x y : Nat) : Pixel :=
  let t := textCell s x y
  if textEn (s.vr VReg.mode) && t != 0 then textPixel s t x y
  else
    let layers := [spritePixel s x y,
      planePixel s.vram (s.vr VReg.planeABase) (s.vr VReg.scrollAX) (s.vr VReg.scrollAY) x y,
      planePixel s.vram (s.vr VReg.planeBBase) (s.vr VReg.scrollBX) (s.vr VReg.scrollBY) x y]
    match resolve layers with
    | some p => s.pcache.rd p.index
    | none => s.pcache.rd (bgIndex (s.vr VReg.mode))

/-! ### The frame (R803) -/

/-- VBLANK_EN, MODE bit 0 (R114). -/
def vblankEn (mode : Short) : Bool := mode.getLsbD 0

/-- HBLANK_EN, MODE bit 1 (R114). -/
def hblankEn (mode : Short) : Bool := mode.getLsbD 1

/-- DIRTY_PAL, MODE bit 13 (R114). -/
def dirtyPal (mode : Short) : Bool := mode.getLsbD 13

/-- One of the four dirty bits, MODE[15:12], is set (R802). -/
def anyDirty (mode : Short) : Bool := mode.extractLsb' 12 4 != 0

/-- A 4-bit channel expanded to 8 bits (R806). -/
def expand4 (c : BitVec 4) : Byte := c ++ c

/-- The RGBA word of a palette entry (R806). -/
def rgba (c : Short) : Pixel :=
  expand4 (c.extractLsb' 8 4) ++ expand4 (c.extractLsb' 4 4) ++ expand4 (c.extractLsb' 0 4) ++ (0xFF : Byte)

/-- `RebuildPalette()` (R806). -/
def rebuildPalette (s : State) : State :=
  s.setPcache (s.cram.mapAll rgba)

/-- The pixels of row `y` (R803 step 3). -/
def drawRow (y : Nat) (s : State) : State :=
  s.setBuf (s.buf.splice (y * Config.frameWidth) Config.frameWidth (fun x => pixel s x y))

/-- What follows row `y`: the next row, or the end of `render`, which returns to the host (R803). -/
def nextRow (y : Fin 224) : Phase :=
  if h : y.val + 1 < 224 then .render (.rowStart ⟨y.val + 1, h⟩) else .idle

/-- Step 0 (R801). -/
def renderVblank (s : State) : State :=
  if vblankEn (s.vr VReg.mode) then s.enter [.render .skipTest] (s.vr VReg.vblankVec)
  else s.setPhase (.render .skipTest)

/-- Step 1 (R802): a frame with no dirty bit is skipped; else the palette-dirty bit is forced. -/
def renderSkipTest (s : State) : State :=
  if anyDirty (s.vr VReg.mode) then
    (s.setVr VReg.mode (s.vr VReg.mode ||| 0x2000)).setPhase (.render (.rowStart 0))
  else s.setPhase .idle

/-- Steps 2a and 2b of row `y` (R804, R805, R810). -/
def renderRowStart (y : Fin 224) (s : State) : State :=
  let s1 := buildSpriteCache y s
  if hblankEn (s1.vr VReg.mode) && (s1.vr VReg.hblankLine).toNat == y.val then
    s1.enter [.render (.rowDraw y)] (s1.vr VReg.hblankVec)
  else s1.setPhase (.render (.rowDraw y))

/-- Steps 2c and 2d of row `y` and its pixels (R804, R806, R807, R833). -/
def renderRowDraw (y : Fin 224) (s : State) : State :=
  let s1 := if dirtyPal (s.vr VReg.mode) then rebuildPalette s else s
  let s2 := s1.setVr VReg.mode (s1.vr VReg.mode &&& 0x0FFF)
  (drawRow y s2).setPhase (nextRow y)

/-- One step of the renderer (R803). -/
def renderStep (pt : RenderPoint) (s : State) : State :=
  match pt with
  | .vblank => renderVblank s
  | .skipTest => renderSkipTest s
  | .rowStart y => renderRowStart y s
  | .rowDraw y => renderRowDraw y s

end Sys2Proof.Machine
end

