-- ==== Sys2Proof/Machine/Step.lean ====
section
/-! DEFINITION. One step of the machine (R400, R409, R803, R970): an instruction of the innermost
invocation, a step of the renderer, a turn of an external handler, or a call of the host. -/

namespace Sys2Proof.Machine

/-- One step. -/
def step (s : State) : Host.Outcome State Fault Refusal :=
  match s.phase with
  | .idle => .next (hostStep s)
  | .render pt => .next (renderStep pt s)
  | .handler h => handlerStep h s
  | .run =>
    match exec (fetchInstr s) s with
    | .next t => .next (t.settle (fetchWraps (fetchInstr s) s.pc))
    | .fault f => .fault f
    | .refused r => .refused r

/-- The state with an instruction's bytes at the program counter and an invocation executing there, so
that the next step runs it: what the host's load and `run` do (log 3). -/
def State.withFetchWord (s : State) (nbits w : Nat) : State :=
  (s.setMem (((s.mem.write s.pc.toNat (tableByte nbits w 0)).write (s.pc + 1).toNat (tableByte nbits w 1)).write
    (s.pc + 2).toNat (tableByte nbits w 2))).setPhase .run

end Sys2Proof.Machine
end

