-- ==== Sys2Proof/Safety.lean ====
section
/-! DEFINITION. The terms claims are stated in: the invariants of the machine, what an instruction does to
the stacks and to memory, and what it leaves alone. Nothing of the machine depends on this file. -/

namespace Sys2Proof.Machine

/-! ### Invariants -/

/-- A buffer the host passes to `render` is in canonical form, with 71680 pixels (R800). -/
def HostCall.wellFormed (c : HostCall) : Bool :=
  match c with
  | .run _ => true
  | .render buf => Store.wf 71680 buf
  | .load _ _ => true

/-- Every memory is in its canonical form and no address lies outside it (R101, R121, R122, R800), and so
is every buffer still to be passed. -/
def State.wf (s : State) : Bool :=
  Memory.wf s.mem && Memory.wf s.vram && Store.wf 1024 s.cgram && Store.wf 71680 s.buf &&
    s.hostCalls.all HostCall.wellFormed

/-- What executes and who called it, on a machine with no external device: an invocation is called by
the host or by one of the renderer's two vector steps, and nothing is nested deeper (R903, R931). -/
def nestingOk (phase : Phase) (callers : List Caller) : Bool :=
  match phase, callers with
  | .idle, [] => true
  | .render _, [] => true
  | .run, [] => true
  | .run, [.render .skipTest] => true
  | .run, [.render (.rowDraw _)] => true
  | _, _ => false

/-- No external device is registered (EXT_PORTS is empty, R710) and `nestingOk` holds. -/
def State.closed (s : State) : Bool :=
  s.params.extReadPorts.isEmpty && s.params.extWritePorts.isEmpty && nestingOk s.phase s.callers

/-! ### Operands and stack effects -/

/-- Bytes per value (R403). -/
def width (short : Bool) : Nat := if short then 2 else 1

/-- Values are taken modulo 2^(8W) (R403, R513). -/
def modulus (short : Bool) : Nat := if short then 65536 else 256

/-- The byte `n` places below the top of a stack, wrapping modulo 256 (R103). -/
def Stack.under (x : Stack) (n : Nat) : Byte := x.dat.rd (x.ptr - 1 - BitVec.ofNat 8 n)

/-- The operand of one or two bytes whose low byte is `n` places below the top (R201, R405). -/
def Stack.word (x : Stack) (short : Bool) (n : Nat) : Nat :=
  if short then (x.under (n + 1)).toNat * 256 + (x.under n).toNat else (x.under n).toNat

/-- The bytes of a value of one or two bytes, the more significant one first (R201, R404). -/
def wordBytes (short : Bool) (v : Nat) : List Byte :=
  if short then [BitVec.ofNat 8 (v / 256), BitVec.ofNat 8 v] else [BitVec.ofNat 8 v]

/-- `x'` is `x` with `drop` bytes removed and then `pushed` put on top, first byte deepest; every other
slot keeps its byte (R103, R404, R405). -/
def StackEffect (x x' : Stack) (drop : Nat) (pushed : List Byte) : Prop :=
  x'.ptr = x.ptr - BitVec.ofNat 8 drop + BitVec.ofNat 8 pushed.length ∧
  ∀ j : Byte, x'.dat.rd j =
    (pushed[(j - (x.ptr - BitVec.ofNat 8 drop)).toNat]?).getD (x.dat.rd j)

/-- The state beyond the stacks, the program counter, main memory and the device registers is as
before. -/
structure OutsideSame (s t : State) : Prop where
  vreg : t.vreg = s.vreg
  cram : t.cram = s.cram
  pcache : t.pcache = s.pcache
  vram : t.vram = s.vram
  cgram : t.cgram = s.cgram
  scache : t.scache = s.scache
  phase : t.phase = s.phase
  callers : t.callers = s.callers
  lastResult : t.lastResult = s.lastResult
  buf : t.buf = s.buf
  hostCalls : t.hostCalls = s.hostCalls
  params : t.params = s.params
  free : t.free = s.free

/-- What an instruction with mode bits `m` does to the CPU: on the active stack `drop` bytes are popped
(none with k = 1, R407) and `pushed` is pushed, on the other stack `other` is pushed, the program counter
becomes `pc`, and nothing outside changes. -/
structure CpuEffect (m : Mode) (s t : State) (drop : Nat) (pushed other : List Byte) (pc : Short) : Prop where
  active : StackEffect (s.stack m.ret) (t.stack m.ret) (if m.keep then 0 else drop) pushed
  other : StackEffect (s.stack (!m.ret)) (t.stack (!m.ret)) 0 other
  pc : t.pc = pc
  outside : OutsideSame s t

/-- No byte of main memory and no device register changes. -/
def NoStore (s t : State) : Prop := (∀ a, t.mem.read a = s.mem.read a) ∧ t.dev = s.dev

/-- The bytes at `addrs` become `bytes`, every other byte of main memory reads as before, and no device
register changes. -/
def StoredAt (s t : State) (addrs : List Nat) (bytes : List Byte) : Prop :=
  addrs.map t.mem.read = bytes ∧ (∀ a, a ∉ addrs → t.mem.read a = s.mem.read a) ∧ t.dev = s.dev

/-- `exec i s` answers a next state of which `P` holds. -/
def Runs (i : Instr) (s : State) (P : State → Prop) : Prop := ∃ t, exec i s = .next t ∧ P t

/-! ### Addresses -/

/-- The address a signed byte displacement away from the address after an opcode at `a`, modulo 65536
(R604, R650). -/
def relTarget (a : Short) (d : Byte) : Nat := (((a.toNat : Int) + 1 + d.toInt) % 65536).toNat

/-- The addresses of an access of one or two bytes that wraps at `cap` (R203, R204). -/
def span (short : Bool) (a cap : Nat) : List Nat := if short then [a, (a + 1) % cap] else [a]

/-! ### The VDP -/

/-- The operand the write protocol assembles from the port pair (R750). -/
def portValue (s : State) : Short := s.dev.rd s.params.vdpPort ++ s.dev.rd (s.params.vdpPort + 1)

/-- The state outside the VDP is as before: all of the CPU, the device registers, the two caches, the
output buffer and the host's side. -/
structure BeyondVdpSame (s t : State) : Prop where
  mem : t.mem = s.mem
  wst : t.wst = s.wst
  rst : t.rst = s.rst
  dev : t.dev = s.dev
  pcache : t.pcache = s.pcache
  scache : t.scache = s.scache
  pc : t.pc = s.pc
  phase : t.phase = s.phase
  callers : t.callers = s.callers
  lastResult : t.lastResult = s.lastResult
  buf : t.buf = s.buf
  hostCalls : t.hostCalls = s.hostCalls
  params : t.params = s.params
  free : t.free = s.free

/-- After an executed command: CMD is 0, MODE is what the operation left with the dirty bit on top, and
every other register is what the operation left (R753, R754). -/
def AfterCommand (t : State) (regs : BitVec 4 → Short) (dirty : Short) : Prop :=
  t.vr 0 = 0 ∧ t.vr 1 = regs 1 ||| dirty ∧ ∀ i, i ≠ 0 → i ≠ 1 → t.vr i = regs i

/-! ### The renderer -/

/-- What the renderer never writes (R809): the CPU's memory and stacks, the device registers, the
palette, VRAM, CGRAM, every register but MODE, and MODE[11:0]. -/
structure RendererKeeps (s t : State) : Prop where
  mem : t.mem = s.mem
  wst : t.wst = s.wst
  rst : t.rst = s.rst
  dev : t.dev = s.dev
  cram : t.cram = s.cram
  vram : t.vram = s.vram
  cgram : t.cgram = s.cgram
  regs : ∀ i, i ≠ 1 → t.vr i = s.vr i
  modeLow : (t.vr 1).extractLsb' 0 12 = (s.vr 1).extractLsb' 0 12

/-! ### What the renderer shows, in the rules' own arithmetic -/

/-- The word at an address of VRAM, big-endian, both addresses modulo 65536 (R825). -/
def wordAt (vram : Memory) (a : Nat) : Nat :=
  (vram.read (a % 65536)).toNat * 256 + (vram.read ((a + 1) % 65536)).toNat

/-- The nibble of column `tx` of row `ty` of pattern `n`: the high one for an even column (R827). -/
def nibbleAt (vram : Memory) (n tx ty : Nat) : Nat :=
  let b := (vram.read ((32 * n + 4 * ty + tx / 2) % 65536)).toNat
  if tx % 2 = 0 then b / 16 else b % 16

/-- A sprite's width or height in pixels from its field of two bits (R811). -/
def spritePixels (bits : Nat) : Nat := 8 * (bits % 4 + 1)

/-- The nibble a cached sprite has at pixel (x, y), 0 where it does not reach (R824): both flips mirror the
whole sprite, and its cells are consecutive patterns, row by row. -/
def spriteNibble (vram : Memory) (e : SpriteSlot) (x y : Nat) : Nat :=
  let w0 := e.w0.toNat
  let w := spritePixels (e.w1.toNat / 1024)
  let h := spritePixels (e.w1.toNat / 256)
  let sx := (x + 512 - e.x.toNat % 512) % 512
  let sy := (y + 512 - e.y.toNat % 512) % 512
  if w ≤ sx ∨ h ≤ sy then 0
  else
    let fx := if w0 / 2048 % 2 = 1 then w - 1 - sx else sx
    let fy := if w0 / 4096 % 2 = 1 then h - 1 - sy else sy
    nibbleAt vram ((w0 % 2048 + fy / 8 * (w / 8) + fx / 8) % 2048) (fx % 8) (fy % 8)

/-- The entries numbered by a list that match row `y`, in the list's order (R810, R812). -/
def spritesOf (s : State) (y : Nat) (walk : List Nat) : List SpriteSlot :=
  (walk.map (spriteEntry s)).filter (fun e => spriteMatch e y)

/-- A layer pixel is the one of the entry `e` with the nibble `v`: transparent for 0, else ROW above the
nibble, with the entry's priority (R828, R829). -/
def Shows (o : Option LayerPixel) (e v : Nat) : Prop :=
  (v = 0 → o = none) ∧
  (v ≠ 0 → ∃ p, o = some p ∧ p.index.toNat = e / 8192 % 4 * 16 + v ∧ (p.pri = true ↔ 32768 ≤ e))

/-! ### Counting stack bytes (R413) -/

/-- What an instruction does to the pointers: the mode bits that say which stack is active and whether
operands are kept, the bytes it pops from the active stack, the bytes it pushes there, and the bytes it
pushes onto the other stack. -/
structure StackUse where
  mode : Mode
  popped : Nat
  pushed : Nat
  other : Nat
deriving DecidableEq, Repr

/-- The widths of the operands and results of every instruction (R303, R307, R403). -/
def stackUse (i : Instr) : StackUse :=
  match i with
  | .brk => ⟨⟨false, false, false⟩, 0, 0, 0⟩
  | .jci _ => ⟨⟨false, false, true⟩, 1, 0, 0⟩
  | .jmi _ => ⟨⟨false, true, false⟩, 0, 0, 0⟩
  | .jsi _ => ⟨⟨false, true, true⟩, 0, 2, 0⟩
  | .lit _ => ⟨⟨true, false, false⟩, 0, 1, 0⟩
  | .lit2 _ => ⟨⟨true, false, true⟩, 0, 2, 0⟩
  | .litr _ => ⟨⟨true, true, false⟩, 0, 1, 0⟩
  | .lit2r _ => ⟨⟨true, true, true⟩, 0, 2, 0⟩
  | .inc m => ⟨m, width m.short, width m.short, 0⟩
  | .pop m => ⟨m, width m.short, 0, 0⟩
  | .dup m => ⟨m, width m.short, 2 * width m.short, 0⟩
  | .nip m | .add m | .sub m | .mul m | .div m | .and m | .ora m | .eor m =>
    ⟨m, 2 * width m.short, width m.short, 0⟩
  | .swp m => ⟨m, 2 * width m.short, 2 * width m.short, 0⟩
  | .rot m => ⟨m, 3 * width m.short, 3 * width m.short, 0⟩
  | .ovr m => ⟨m, 2 * width m.short, 3 * width m.short, 0⟩
  | .equ m | .neq m | .gth m | .lth m => ⟨m, 2 * width m.short, 1, 0⟩
  | .sft m => ⟨m, 1 + width m.short, width m.short, 0⟩
  | .jmp m => ⟨m, width m.short, 0, 0⟩
  | .jcn m => ⟨m, width m.short + 1, 0, 0⟩
  | .jsr m => ⟨m, width m.short, 0, 2⟩
  | .sth m => ⟨m, width m.short, 0, width m.short⟩
  | .ldz m | .ldr m | .dei m => ⟨m, 1, width m.short, 0⟩
  | .lda m => ⟨m, 2, width m.short, 0⟩
  | .stz m | .str m | .deo m => ⟨m, 1 + width m.short, 0, 0⟩
  | .sta m => ⟨m, 2 + width m.short, 0, 0⟩

/-! ### Device ports (R706, R707, R710) -/

/-- No read handler is registered at a port. -/
def PlainRead (c : Params) (p : Byte) : Prop := p ≠ c.vdpPort ∧ p ∉ c.extReadPorts

/-- No write handler is registered at a port. -/
def PlainWrite (c : Params) (p : Byte) : Prop := p ≠ c.vdpPort + 1 ∧ p ∉ c.extWritePorts

/-- An external device's read handler is registered at a port. -/
def ExtRead (c : Params) (p : Byte) : Prop := p ≠ c.vdpPort ∧ p ∈ c.extReadPorts

/-- An external device's write handler is registered at a port. -/
def ExtWrite (c : Params) (p : Byte) : Prop := p ≠ c.vdpPort + 1 ∧ p ∈ c.extWritePorts

/-- `t` is `s` but for its active stack, onto which `pushed` is pushed. -/
def PushedOnly (ret : Bool) (s t : State) (pushed : List Byte) : Prop :=
  t = s.setStack ret (t.stack ret) ∧ StackEffect (s.stack ret) (t.stack ret) 0 pushed

/-- `t` is `s` but for the device register file. -/
def DevOnly (s t : State) : Prop := t = s.setDev t.dev

/-! ### A frame without vectors -/

/-- The pixel that a frame without vectors draws at (x, y): the row's own sprite cache, the palette cache
rebuilt, and the dirty bits clear (R803). -/
def framePixel (s : State) (x y : Nat) : Pixel :=
  pixel ((buildSpriteCache y (rebuildPalette s)).setVr VReg.mode (s.vr VReg.mode &&& 0x0FFF)) x y

end Sys2Proof.Machine
end

