-- ==== Sys2Proof/WellFormed.lean ====
section
/-! DEFINITION. Well-formedness of what is given to the machine from outside: its parameters and its
instructions. The host's calls and the state have their checks in Safety.lean. -/

namespace Sys2Proof

/-- Every instruction is well-formed: each of the 256 opcode bytes is an instruction and each operand
field has exactly the values its encoding admits (R308). -/
def Instr.wellFormed (_ : Instr) : Bool := true

/-- VDP_PORT is in 0x00-0xFE, so that the pair does not wrap (R707). -/
def Params.vdpPortOk (c : Params) : Bool := c.vdpPort != 0xFF

/-- A list of ports is disjoint from the VDP's pair (R710). -/
def Params.portsOk (c : Params) (ports : List Byte) : Bool :=
  ports.all (fun p => p != c.vdpPort && p != c.vdpPort + 1)

/-- The conditions R707 and R710 put on the parameters. -/
def Params.wellFormed (c : Params) : Bool :=
  c.vdpPortOk && c.portsOk c.extReadPorts && c.portsOk c.extWritePorts

end Sys2Proof
end

