-- ==== Sys2Proof/Certificates/Slice0/Obligations.lean ====
section
/-! DEFINITION. The statements for the provers. A docstring names the rules a statement follows; a rule
the spec marks as its own decision or as derived is named by its section in OBLIGATIONS.json. -/

open Sys2Proof Sys2Proof.Machine

/-! ### Encoding -/

/-- Every instruction's bytes decode to it, with every operand at every value, and the bytes after it are
left over. 30_encoding.md R300 to R305 (decisions D1 to D4). -/
def Obligations.DecodeOfEncode : Prop :=
  ∀ (i : Instr) (rest : List Byte), i.wellFormed = true → decode (encode i ++ rest) = .ok (i, rest)

/-- Where bytes decode, they are the instruction's encoding and the bytes left over: no two byte sequences
of one length are one instruction. 30_encoding.md R300 to R305, R309. -/
def Obligations.EncodeOfDecode : Prop :=
  ∀ (bytes rest : List Byte) (i : Instr), decode bytes = .ok (i, rest) → encode i ++ rest = bytes

/-- The table of R300 and R308: the first byte alone fixes the length, every one of the 256 opcode bytes is
an instruction, and decoding is refused only where bytes are missing. -/
def Obligations.EveryOpcodeByteIsAnInstruction : Prop :=
  ∀ (op : Byte) (rest : List Byte),
    let len : Nat :=
      if op ∈ [0x20, 0x40, 0x60, 0xA0, 0xE0] then 3 else if op ∈ [0x80, 0xC0] then 2 else 1
    (∀ i left, decode (op :: rest) = .ok (i, left) → instrLength i = len) ∧
    (len ≤ 1 + rest.length → ∃ i, decode (op :: rest) = .ok (i, rest.drop (len - 1))) ∧
    (1 + rest.length < len → decode (op :: rest) = .error (.truncated len))

/-- The whole map of R308: the numbers of R304 for base operations 1 to 31 in every mode, the eight forms of
base operation 0 with their immediates, high byte first (R303, R305), and fourteen of its words as
spec/opcode_table.json numbers their bits. The numbering is the spec's decisions D2 to D4, the byte order
D1. 30_encoding.md R301 to R305, R308. -/
def Obligations.OpcodeMapWords : Prop :=
  let numbers : List (BitVec 5 × (Mode → Instr)) :=
    [(0x01, .inc), (0x02, .pop), (0x03, .nip), (0x04, .swp), (0x05, .rot), (0x06, .dup),
    (0x07, .ovr), (0x08, .equ), (0x09, .neq), (0x0A, .gth), (0x0B, .lth), (0x0C, .jmp),
    (0x0D, .jcn), (0x0E, .jsr), (0x0F, .sth), (0x10, .ldz), (0x11, .stz), (0x12, .ldr),
    (0x13, .str), (0x14, .lda), (0x15, .sta), (0x16, .dei), (0x17, .deo), (0x18, .add),
    (0x19, .sub), (0x1A, .mul), (0x1B, .div), (0x1C, .and), (0x1D, .ora), (0x1E, .eor),
    (0x1F, .sft)]
  (∀ row ∈ numbers, ∀ (op : Byte) (rest : List Byte), op.extractLsb' 0 5 = row.1 →
    decode (op :: rest) =
      .ok (row.2 { keep := op.getLsbD 7, ret := op.getLsbD 6, short := op.getLsbD 5 }, rest)) ∧
  (∀ (b1 b2 : Byte) (rest : List Byte),
    decode (0x00 :: rest) = .ok (.brk, rest) ∧
    decode (0x20 :: b1 :: b2 :: rest) = .ok (.jci (b1 ++ b2), rest) ∧
    decode (0x40 :: b1 :: b2 :: rest) = .ok (.jmi (b1 ++ b2), rest) ∧
    decode (0x60 :: b1 :: b2 :: rest) = .ok (.jsi (b1 ++ b2), rest) ∧
    decode (0x80 :: b1 :: rest) = .ok (.lit b1, rest) ∧
    decode (0xA0 :: b1 :: b2 :: rest) = .ok (.lit2 (b1 ++ b2), rest) ∧
    decode (0xC0 :: b1 :: rest) = .ok (.litr b1, rest) ∧
    decode (0xE0 :: b1 :: b2 :: rest) = .ok (.lit2r (b1 ++ b2), rest)) ∧
  decodeTableWord 8 0x00 = some .brk ∧
  decodeTableWord 24 0x341220 = some (.jci 0x1234) ∧
  decodeTableWord 24 0xFDFF40 = some (.jmi 0xFFFD) ∧
  decodeTableWord 24 0x050060 = some (.jsi 0x0005) ∧
  decodeTableWord 16 0x1280 = some (.lit 0x12) ∧
  decodeTableWord 24 0x3412A0 = some (.lit2 0x1234) ∧
  decodeTableWord 24 0x3412E0 = some (.lit2r 0x1234) ∧
  decodeTableWord 8 0xB8 = some (.add ⟨true, false, true⟩) ∧
  decodeTableWord 8 0x6C = some (.jmp ⟨false, true, true⟩) ∧
  decodeTableWord 8 0xEF = some (.sth ⟨true, true, true⟩) ∧
  decodeTableWord 8 0x9F = some (.sft ⟨true, false, false⟩) ∧
  decodeTableWord 8 0x36 = some (.dei ⟨false, false, true⟩) ∧
  decodeTableWord 8 0x57 = some (.deo ⟨false, true, false⟩) ∧
  decodeTableWord 8 0x15 = some (.sta ⟨false, false, false⟩)

/-! ### The step -/

/-- A step of an invocation runs the instruction whose bytes stand at the program counter (R214, R401,
R402). RUN_OFF is consulted only where those bytes run past 0xFFFF (R410). That the check comes after an
external handler the instruction waits for, that none follows BRK, and that one follows a jump whose own
bytes wrap, are DEDUCED (log 14); the three predicates and the free choice between the two outcomes are
DESIGN CHOICE (log 12), as is the counter `free` that counts it (log 7). What the invocation's end leaves,
result 1 among it, is InvocationEndsForItsCaller. -/
def Obligations.StepRunsDecodedInstruction : Prop :=
  ∀ (s : State) (i : Instr) (rest : List Byte), s.phase = .run →
    decode [s.mem.read s.pc.toNat, s.mem.read (s.pc + 1).toNat, s.mem.read (s.pc + 2).toNat] = .ok (i, rest) →
    i.wellFormed = true →
    ∃ t, exec i s = .next t ∧
      (i = .brk ∨ s.pc.toNat + instrLength i ≤ 65535 → step s = .next t) ∧
      (i ≠ .brk → 65535 < s.pc.toNat + instrLength i →
        (∀ h, t.phase = .handler h → step s = .next (t.setPhase (.handler ⟨h.port, h.resume, true⟩))) ∧
        ((∀ h, t.phase ≠ .handler h) →
          (s.params.runOff = .never → step s = .next t) ∧
          (s.params.runOff = .alwaysAtWrap → step s = .next (t.leave .ranOff)) ∧
          (s.params.runOff = .mayAtWrap →
            step s = .next ((t.setFree (t.free + 1)).leave .ranOff) ∨
            step s = .next (t.setFree (t.free + 1)))))

/-- No state makes the machine stop, with MAX_NEST unbounded as it is by default: every condition that is an
exception elsewhere has an outcome here (60_exceptions.md R900, 40_execution.md R409, R412), and the host's
calls, the renderer and the external handlers answer a next state as well. -/
def Obligations.EveryStepAnswersNext : Prop :=
  ∀ s : State, s.params.maxNest = none → ∃ t, step s = .next t

/-- The stack-pointer law R413: bytes pushed minus bytes popped, modulo 256, on the active stack, with
nothing popped when k = 1, and bytes pushed on the other. An instruction that waits for an external handler
is not done, and BRK under a handler's caller resumes one. -/
def Obligations.StackPointerLaw : Prop :=
  ∀ (i : Instr) (s t : State), exec i s = .next t → (∀ h, t.phase ≠ .handler h) →
    let u := stackUse i
    (t.stack u.mode.ret).ptr =
        (s.stack u.mode.ret).ptr - BitVec.ofNat 8 (if u.mode.keep then 0 else u.popped) + BitVec.ofNat 8 u.pushed ∧
    (t.stack (!u.mode.ret)).ptr = (s.stack (!u.mode.ret)).ptr + BitVec.ofNat 8 u.other

/-- Keep mode (R407), for every base operation 1 to 31: with k = 1 an instruction does what the same opcode
with k = 0 does, results and pushes on the other stack included, but the operand bytes it popped are still
on the active stack, as they were, below the results. That also holds at the call of an external handler,
where the restore has been made: 40_execution.md R408, the spec's own order (decision D11, log 18). -/
def Obligations.KeepModeLeavesOperands : Prop :=
  ∀ (op b1 b2 : Byte) (s t u : State), op.getLsbD 7 = true → op.extractLsb' 0 5 ≠ 0 →
    exec (decodeOp op b1 b2) s = .next t → exec (decodeOp (op &&& 0x7F) b1 b2) s = .next u →
    let ret := op.getLsbD 6
    t = u.setStack ret (t.stack ret) ∧
    ∃ pushed, StackEffect (s.stack ret) (t.stack ret) 0 pushed ∧
      StackEffect (s.stack ret) (u.stack ret) (stackUse (decodeOp op b1 b2)).popped pushed

/-! ### Arithmetic, bitwise, comparison -/

/-- INC, ADD, SUB, MUL, DIV complete with their result modulo 2^(8W), division by zero giving zero, and
change nothing but the active stack and the program counter. 42_alu.md R500 to R504, R513 (decisions D3,
D6, D8). -/
def Obligations.ArithmeticResults : Prop :=
  ∀ (m : Mode) (s : State),
    let x := s.stack m.ret
    let W := width m.short
    let M := modulus m.short
    let a := x.word m.short W
    let b := x.word m.short 0
    Runs (.inc m) s (fun t => CpuEffect m s t W (wordBytes m.short ((b + 1) % M)) [] (s.pc + 1) ∧ NoStore s t) ∧
    Runs (.add m) s (fun t =>
      CpuEffect m s t (2 * W) (wordBytes m.short ((a + b) % M)) [] (s.pc + 1) ∧ NoStore s t) ∧
    Runs (.sub m) s (fun t =>
      CpuEffect m s t (2 * W) (wordBytes m.short ((a + M - b) % M)) [] (s.pc + 1) ∧ NoStore s t) ∧
    Runs (.mul m) s (fun t =>
      CpuEffect m s t (2 * W) (wordBytes m.short (a * b % M)) [] (s.pc + 1) ∧ NoStore s t) ∧
    Runs (.div m) s (fun t =>
      CpuEffect m s t (2 * W) (wordBytes m.short (if b = 0 then 0 else a / b)) [] (s.pc + 1) ∧ NoStore s t)

/-- AND, ORA, EOR and SFT complete with their result. SFT shifts right by the low nibble of a one-byte
count, then left by its high nibble, in both modes. 42_alu.md R505 to R508 (decisions D6, D7). -/
def Obligations.BitwiseResults : Prop :=
  ∀ (m : Mode) (s : State),
    let x := s.stack m.ret
    let W := width m.short
    let a := x.word m.short W
    let b := x.word m.short 0
    let n := x.word false 0
    let v := x.word m.short 1
    Runs (.and m) s (fun t => CpuEffect m s t (2 * W) (wordBytes m.short (a &&& b)) [] (s.pc + 1) ∧ NoStore s t) ∧
    Runs (.ora m) s (fun t => CpuEffect m s t (2 * W) (wordBytes m.short (a ||| b)) [] (s.pc + 1) ∧ NoStore s t) ∧
    Runs (.eor m) s (fun t => CpuEffect m s t (2 * W) (wordBytes m.short (a ^^^ b)) [] (s.pc + 1) ∧ NoStore s t) ∧
    Runs (.sft m) s (fun t =>
      CpuEffect m s t (1 + W) (wordBytes m.short (v / 2 ^ (n % 16) * 2 ^ (n / 16) % modulus m.short)) []
        (s.pc + 1) ∧ NoStore s t)

/-- A comparison completes with one byte in both modes, 0x01 or 0x00, of the unsigned values. 42_alu.md
R509 to R513 (decisions D6, D8). -/
def Obligations.ComparisonResults : Prop :=
  ∀ (m : Mode) (s : State),
    let x := s.stack m.ret
    let W := width m.short
    let a := x.word m.short W
    let b := x.word m.short 0
    Runs (.equ m) s (fun t => CpuEffect m s t (2 * W) [if a = b then 1 else 0] [] (s.pc + 1) ∧ NoStore s t) ∧
    Runs (.neq m) s (fun t => CpuEffect m s t (2 * W) [if a ≠ b then 1 else 0] [] (s.pc + 1) ∧ NoStore s t) ∧
    Runs (.gth m) s (fun t => CpuEffect m s t (2 * W) [if b < a then 1 else 0] [] (s.pc + 1) ∧ NoStore s t) ∧
    Runs (.lth m) s (fun t => CpuEffect m s t (2 * W) [if a < b then 1 else 0] [] (s.pc + 1) ∧ NoStore s t)

/-! ### Stack manipulation -/

/-- NIP (R551): base 0x03, `( a b -- b )`, and with k = 1 `( a b -- a b b )`; nothing else changes but the
program counter. -/
def Obligations.NipRemovesSecond : Prop :=
  (∀ op b1 b2 : Byte, op.extractLsb' 0 5 = 0x03 → decodeOp op b1 b2 = .nip (decodeMode op)) ∧
  ∀ (m : Mode) (s : State),
    let x := s.stack m.ret
    Runs (.nip m) s (fun t =>
      CpuEffect m s t (2 * width m.short) (wordBytes m.short (x.word m.short 0)) [] (s.pc + 1) ∧ NoStore s t)

/-- DUP (R554): base 0x06, `( a -- a a )`, and with k = 1 `( a -- a a a )`; nothing else changes but the
program counter. -/
def Obligations.DupDuplicatesTop : Prop :=
  (∀ op b1 b2 : Byte, op.extractLsb' 0 5 = 0x06 → decodeOp op b1 b2 = .dup (decodeMode op)) ∧
  ∀ (m : Mode) (s : State),
    let x := s.stack m.ret
    let a := wordBytes m.short (x.word m.short 0)
    Runs (.dup m) s (fun t => CpuEffect m s t (width m.short) (a ++ a) [] (s.pc + 1) ∧ NoStore s t)

/-- POP, SWP, ROT and OVR complete with the stack effects of R550, R552, R553 and R555 (decision D6). -/
def Obligations.StackManipulation : Prop :=
  ∀ (m : Mode) (s : State),
    let x := s.stack m.ret
    let W := width m.short
    let v0 := wordBytes m.short (x.word m.short 0)
    let v1 := wordBytes m.short (x.word m.short W)
    let v2 := wordBytes m.short (x.word m.short (2 * W))
    Runs (.pop m) s (fun t => CpuEffect m s t W [] [] (s.pc + 1) ∧ NoStore s t) ∧
    Runs (.swp m) s (fun t => CpuEffect m s t (2 * W) (v0 ++ v1) [] (s.pc + 1) ∧ NoStore s t) ∧
    Runs (.rot m) s (fun t => CpuEffect m s t (3 * W) (v1 ++ v0 ++ v2) [] (s.pc + 1) ∧ NoStore s t) ∧
    Runs (.ovr m) s (fun t => CpuEffect m s t (2 * W) (v1 ++ v0 ++ v1) [] (s.pc + 1) ∧ NoStore s t)

/-! ### Control transfer -/

/-- JMP, JCN and JSR: the target is a signed byte away from the next instruction in byte mode and absolute
in short mode; JCN pops a one-byte condition below it in both modes and falls through on zero; JSR pushes
the two-byte return address onto the other stack. 44_control.md R600 to R602, R604 (decisions D6, D9,
D10). -/
def Obligations.JumpsAndCalls : Prop :=
  ∀ (m : Mode) (s : State),
    let x := s.stack m.ret
    let W := width m.short
    let d := x.word m.short 0
    let goal : Short := BitVec.ofNat 16 (if m.short then d else relTarget s.pc (BitVec.ofNat 8 d))
    let next : Nat := (s.pc.toNat + 1) % 65536
    Runs (.jmp m) s (fun t => CpuEffect m s t W [] [] goal ∧ NoStore s t) ∧
    (x.word false W ≠ 0 → Runs (.jcn m) s (fun t => CpuEffect m s t (W + 1) [] [] goal ∧ NoStore s t)) ∧
    (x.word false W = 0 → Runs (.jcn m) s (fun t => CpuEffect m s t (W + 1) [] [] (s.pc + 1) ∧ NoStore s t)) ∧
    Runs (.jsr m) s (fun t => CpuEffect m s t W [] (wordBytes true next) goal ∧ NoStore s t)

/-- STH (R603): base 0x0F moves the top value to the other stack; with k = 1 the value also stays, and the
push is never undone. -/
def Obligations.StashMovesTop : Prop :=
  (∀ op b1 b2 : Byte, op.extractLsb' 0 5 = 0x0F → decodeOp op b1 b2 = .sth (decodeMode op)) ∧
  ∀ (m : Mode) (s : State),
    let x := s.stack m.ret
    Runs (.sth m) s (fun t =>
      CpuEffect m s t (width m.short) [] (wordBytes m.short (x.word m.short 0)) (s.pc + 1) ∧ NoStore s t)

/-- JCI, JMI and JSI: the displacement is taken from the address after the opcode or, under the other value
of IMM_REL_BASE, from the address after the operand; JCI consumes its condition byte either way; JSI pushes
the address after the operand onto the return stack under both. 41_immediate.md R451 to R453, 30_encoding.md
R306 (decisions D4, D5, D8, D10). -/
def Obligations.ImmediateJumps : Prop :=
  ∀ (disp : Short) (s : State),
    let base : Nat := s.pc.toNat + (match s.params.immRelBase with | .afterOpcode => 1 | .afterOperand => 3)
    let goal : Short := BitVec.ofNat 16 ((base + disp.toNat) % 65536)
    let after : Short := s.pc + 3
    (s.wst.word false 0 ≠ 0 →
      Runs (.jci disp) s (fun t => CpuEffect ⟨false, false, false⟩ s t 1 [] [] goal ∧ NoStore s t)) ∧
    (s.wst.word false 0 = 0 →
      Runs (.jci disp) s (fun t => CpuEffect ⟨false, false, false⟩ s t 1 [] [] after ∧ NoStore s t)) ∧
    Runs (.jmi disp) s (fun t => CpuEffect ⟨false, true, false⟩ s t 0 [] [] goal ∧ NoStore s t) ∧
    Runs (.jsi disp) s (fun t =>
      CpuEffect ⟨false, true, false⟩ s t 0 (wordBytes true ((s.pc.toNat + 3) % 65536)) [] goal ∧ NoStore s t)

/-- LIT, LIT2, LITr and LIT2r push their literal, the high byte first, onto the stack that bit 6 names, and
the program counter passes the literal. 41_immediate.md R454 (decisions D1, D4). -/
def Obligations.Literals : Prop :=
  ∀ (v : Byte) (w : Short) (s : State),
    Runs (.lit v) s (fun t => CpuEffect ⟨false, false, false⟩ s t 0 [v] [] (s.pc + 2) ∧ NoStore s t) ∧
    Runs (.litr v) s (fun t => CpuEffect ⟨false, true, false⟩ s t 0 [v] [] (s.pc + 2) ∧ NoStore s t) ∧
    Runs (.lit2 w) s (fun t =>
      CpuEffect ⟨false, false, true⟩ s t 0 (wordBytes true w.toNat) [] (s.pc + 3) ∧ NoStore s t) ∧
    Runs (.lit2r w) s (fun t =>
      CpuEffect ⟨false, true, true⟩ s t 0 (wordBytes true w.toNat) [] (s.pc + 3) ∧ NoStore s t)

/-- BRK ends the innermost invocation with result 0 and its caller goes on: the host, the renderer at the
step after the vector, or an external handler with the program counter of the invocation that called it.
Nothing else changes. 41_immediate.md R450, 40_execution.md R412, 60_exceptions.md R905 (decisions D4, D17,
D18); what the program counter holds while no invocation runs is the model's (log 6). -/
def Obligations.BrkReturnsToCaller : Prop :=
  ∀ s : State,
    (s.callers = [] →
      exec .brk s = .next { s with pc := s.pc + 1, lastResult := some .halted, phase := .idle }) ∧
    (∀ pt rest, s.callers = .render pt :: rest →
      exec .brk s = .next
        { s with pc := s.pc + 1, lastResult := some .halted, callers := rest, phase := .render pt }) ∧
    (∀ h pc rest, s.callers = .handler h pc :: rest →
      exec .brk s = .next { s with pc := pc, lastResult := some .halted, callers := rest, phase := .handler h })

/-! ### Memory -/

/-- LDZ, LDR and LDA push the W bytes they read: a short's second byte is at the next address, modulo 256 in
the zero page and modulo 65536 elsewhere. The address operand is one byte for LDZ and LDR and two for LDA
in both modes. 45_memory_access.md R650, R651, R653, R655, 20_memory.md R203 (decisions D1, D6). -/
def Obligations.Loads : Prop :=
  ∀ (m : Mode) (s : State),
    let x := s.stack m.ret
    let z := x.word false 0
    let e := relTarget s.pc (BitVec.ofNat 8 z)
    let a := x.word true 0
    Runs (.ldz m) s (fun t =>
      CpuEffect m s t 1 ((span m.short z 256).map s.mem.read) [] (s.pc + 1) ∧ NoStore s t) ∧
    Runs (.ldr m) s (fun t =>
      CpuEffect m s t 1 ((span m.short e 65536).map s.mem.read) [] (s.pc + 1) ∧ NoStore s t) ∧
    Runs (.lda m) s (fun t =>
      CpuEffect m s t 2 ((span m.short a 65536).map s.mem.read) [] (s.pc + 1) ∧ NoStore s t)

/-- STZ, STR and STA store the W bytes of the value below the address operand, the high byte first, at the
addresses of the mode, and no other byte. 45_memory_access.md R650, R652, R654, R656, 20_memory.md R203
(decisions D1, D6). -/
def Obligations.Stores : Prop :=
  ∀ (m : Mode) (s : State),
    let x := s.stack m.ret
    let W := width m.short
    let z := x.word false 0
    let e := relTarget s.pc (BitVec.ofNat 8 z)
    let a := x.word true 0
    let v1 := wordBytes m.short (x.word m.short 1)
    let v2 := wordBytes m.short (x.word m.short 2)
    Runs (.stz m) s (fun t =>
      CpuEffect m s t (1 + W) [] [] (s.pc + 1) ∧ StoredAt s t (span m.short z 256) v1) ∧
    Runs (.str m) s (fun t =>
      CpuEffect m s t (1 + W) [] [] (s.pc + 1) ∧ StoredAt s t (span m.short e 65536) v1) ∧
    Runs (.sta m) s (fun t =>
      CpuEffect m s t (2 + W) [] [] (s.pc + 1) ∧ StoredAt s t (span m.short a 65536) v2)

/-- The zero-page primitives (R204): the second byte of a short is at the address plus 1 modulo 256, so a
short at 0xFF has its low byte at 0x00 and never at 0x0100. -/
def Obligations.ZeroPagePrimitives : Prop :=
  ∀ (mem : Memory) (a : Byte) (v : Short),
    let a2 := (a.toNat + 1) % 256
    (zpRead mem false a).toNat = (mem.read a.toNat).toNat ∧
    (zpRead mem true a).toNat = (mem.read a.toNat).toNat * 256 + (mem.read a2).toNat ∧
    (zpWrite mem false a v).read a.toNat = BitVec.ofNat 8 v.toNat ∧
    (∀ b, b ≠ a.toNat → (zpWrite mem false a v).read b = mem.read b) ∧
    (zpWrite mem true a v).read a.toNat = BitVec.ofNat 8 (v.toNat / 256) ∧
    (zpWrite mem true a v).read a2 = BitVec.ofNat 8 v.toNat ∧
    (∀ b, b ≠ a.toNat → b ≠ a2 → (zpWrite mem true a v).read b = mem.read b)

/-! ### Device bus -/

/-- The two bus accesses (R700, R701, R706): a read answers the raw byte where no read handler is registered
and changes nothing, and a write stores its byte first, in every case, and then runs the handler that is
registered, which sees the new byte. The VDP's ports are R707's (decisions D20, D21); where ill-formed
parameters put an external handler on one of them, the VDP's runs: the model's choice (log 16). -/
def Obligations.BusAccess : Prop :=
  ∀ (s : State) (p v : Byte) (r : Resume),
    (PlainRead s.params p → devRead p s = (s.dev.rd p, s)) ∧
    (p = s.params.vdpPort → devRead p s = vdpRead s) ∧
    ∃ u, DevOnly s u ∧ u.dev.rd p = v ∧ (∀ q, q ≠ p → u.dev.rd q = s.dev.rd q) ∧
      (PlainWrite s.params p → devWrite p v r s = u) ∧
      (p = s.params.vdpPort + 1 → devWrite p v r s = vdpWrite u) ∧
      (ExtWrite s.params p → devWrite p v r s = { u with phase := .handler ⟨p, r, false⟩ })

/-- DEI and DEO on ports without an external handler are one bus access in byte mode and two in short mode,
the high byte at the port first and then the low byte at the port plus 1 modulo 256; the operands are gone,
or kept, before the first access, and DEI pushes what the accesses answer. 46_device_bus.md R704, R705,
40_execution.md R408 (decisions D1, D6, D11). -/
def Obligations.DeviceInstructionsAccessBus : Prop :=
  ∀ (m : Mode) (s : State),
    let x := s.stack m.ret
    let p := x.under 0
    (¬ ExtRead s.params p → (m.short = true → ¬ ExtRead s.params (p + 1)) →
      Runs (.dei m) s (fun t => ∃ u, CpuEffect m s u 1 [] [] (s.pc + 1) ∧ NoStore s u ∧
        (m.short = false → PushedOnly m.ret (devRead p u).2 t [(devRead p u).1]) ∧
        (m.short = true →
          let hi := devRead p u
          let lo := devRead (p + 1) hi.2
          PushedOnly m.ret lo.2 t [hi.1, lo.1]))) ∧
    (¬ ExtWrite s.params p → (m.short = true → ¬ ExtWrite s.params (p + 1)) →
      Runs (.deo m) s (fun t => ∃ u, CpuEffect m s u (1 + width m.short) [] [] (s.pc + 1) ∧ NoStore s u ∧
        (m.short = false → t = devWrite p (x.under 1) .writeDone u) ∧
        (m.short = true →
          t = devWrite (p + 1) (x.under 1) .writeDone (devWrite p (x.under 2) .writeDone u))))

/-- On ports that are plain storage DEI pushes the bytes stored there and changes nothing else, and DEO
stores its bytes there and nowhere else. 46_device_bus.md R704 to R706 (decisions D1, D6, D11). -/
def Obligations.PlainPortsAreStorage : Prop :=
  ∀ (m : Mode) (s : State),
    let x := s.stack m.ret
    let p := x.under 0
    (PlainRead s.params p → (m.short = true → PlainRead s.params (p + 1)) →
      Runs (.dei m) s (fun t =>
        CpuEffect m s t 1 (if m.short then [s.dev.rd p, s.dev.rd (p + 1)] else [s.dev.rd p]) [] (s.pc + 1) ∧
        NoStore s t)) ∧
    (PlainWrite s.params p → (m.short = true → PlainWrite s.params (p + 1)) →
      Runs (.deo m) s (fun t =>
        CpuEffect m s t (1 + width m.short) [] [] (s.pc + 1) ∧ t.mem = s.mem ∧
        (m.short = false → ∀ q, t.dev.rd q = if q = p then x.under 1 else s.dev.rd q) ∧
        (m.short = true → ∀ q,
          t.dev.rd q = if q = p then x.under 2 else if q = p + 1 then x.under 1 else s.dev.rd q)))

/-- A read of the VDP's port through DEI: the result of the pending command's read selector goes into the
port pair, CMD becomes zero, DEI pushes the high byte and DEI2 the whole result, and nothing else changes.
The premise on the second port is the condition of R710 on EXT_PORTS. 46_device_bus.md R704, R707,
47_vdp_commands.md R790 (decisions D1, D20, D21, D24). -/
def Obligations.DeiReadsVdp : Prop :=
  ∀ (m : Mode) (s : State),
    let P := s.params.vdpPort
    (s.stack m.ret).under 0 = P → P + 1 ∉ s.params.extReadPorts →
    Runs (.dei m) s (fun t => ∃ u, CpuEffect m s u 1 (if m.short
        then [BitVec.ofNat 8 ((vdpResult s).toNat / 256), BitVec.ofNat 8 (vdpResult s).toNat]
        else [BitVec.ofNat 8 ((vdpResult s).toNat / 256)]) [] (s.pc + 1) ∧ NoStore s u ∧
      t.vr 0 = 0 ∧ (∀ i, i ≠ 0 → t.vr i = s.vr i) ∧ t.dev.rd P = BitVec.ofNat 8 ((vdpResult s).toNat / 256) ∧
      t.dev.rd (P + 1) = BitVec.ofNat 8 (vdpResult s).toNat ∧
      (∀ q, q ≠ P → q ≠ P + 1 → t.dev.rd q = s.dev.rd q) ∧
      t = { u with vreg := t.vreg, dev := t.dev })

/-- A write of the VDP's port pair through DEO: a byte to the second port, or a short to the pair, is stored
and then the write protocol runs once on the pair. The premise on the first port is the condition of R710 on
EXT_PORTS. 46_device_bus.md R705, R707, 47_vdp_commands.md R750 (decisions D1, D20, D21). -/
def Obligations.DeoDrivesVdp : Prop :=
  ∀ (m : Mode) (s : State),
    let x := s.stack m.ret
    let P := s.params.vdpPort
    (m.short = false → x.under 0 = P + 1 → Runs (.deo m) s (fun t => ∃ u, CpuEffect m s u 2 [] [] (s.pc + 1) ∧
      u.mem = s.mem ∧ (∀ q, u.dev.rd q = if q = P + 1 then x.under 1 else s.dev.rd q) ∧
      portValue u = s.dev.rd P ++ x.under 1 ∧ t = vdpWrite u)) ∧
    (m.short = true → x.under 0 = P → P ∉ s.params.extWritePorts →
      Runs (.deo m) s (fun t => ∃ u, CpuEffect m s u 3 [] [] (s.pc + 1) ∧ u.mem = s.mem ∧
        (∀ q, u.dev.rd q = if q = P then x.under 2 else if q = P + 1 then x.under 1 else s.dev.rd q) ∧
        portValue u = x.under 2 ++ x.under 1 ∧ t = vdpWrite u))

/-- DEO and DEI at the port of an external handler: the bytes up to that access are stored or read, the
operands are gone or kept, and the handler runs next, inside the instruction, with what is left of it.
40_execution.md R408, R409, 46_device_bus.md R704, R705, R710 (decisions D11, D19). -/
def Obligations.ExternalPortsCallHandlers : Prop :=
  ∀ (m : Mode) (s : State),
    let x := s.stack m.ret
    let p := x.under 0
    (ExtRead s.params p → Runs (.dei m) s (fun t => ∃ u, CpuEffect m s u 1 [] [] (s.pc + 1) ∧ NoStore s u ∧
      t = u.setPhase (.handler ⟨p, if m.short then .readHi m.ret (p + 1) else .readByte m.ret, false⟩))) ∧
    (m.short = true → ¬ ExtRead s.params p → ExtRead s.params (p + 1) →
      Runs (.dei m) s (fun t => ∃ u, CpuEffect m s u 1 [] [] (s.pc + 1) ∧ NoStore s u ∧
        t = (devRead p u).2.setPhase (.handler ⟨p + 1, .readLo m.ret (devRead p u).1, false⟩))) ∧
    (ExtWrite s.params p →
      Runs (.deo m) s (fun t => ∃ u, CpuEffect m s u (1 + width m.short) [] [] (s.pc + 1) ∧ u.mem = s.mem ∧
        (∀ q, u.dev.rd q = if q = p then (if m.short then x.under 2 else x.under 1) else s.dev.rd q) ∧
        t = u.setPhase
          (.handler ⟨p, if m.short then .writeNext (p + 1) (x.under 1) else .writeDone, false⟩))) ∧
    (m.short = true → ¬ ExtWrite s.params p → ExtWrite s.params (p + 1) →
      Runs (.deo m) s (fun t => ∃ u, CpuEffect m s u 3 [] [] (s.pc + 1) ∧ NoStore s u ∧
        t = devWrite (p + 1) (x.under 1) .writeDone (devWrite p (x.under 2) .writeDone u) ∧
        t.phase = .handler ⟨p + 1, .writeDone, false⟩ ∧ t.dev.rd (p + 1) = x.under 1 ∧ t.dev.rd p = x.under 2))

/-- The VDP's two handlers (R709) change only the port pair and the VDP's own state, and they start no
invocation: the phase and the callers are as before. The write handler writes no byte of main memory and
not even the port pair. -/
def Obligations.VdpHandlersFrame : Prop :=
  ∀ s : State, BeyondVdpSame s (vdpWrite s) ∧
    (vdpRead s).2 = { s with dev := (vdpRead s).2.dev, vreg := (vdpRead s).2.vreg } ∧
    ∀ q, q ≠ s.params.vdpPort → q ≠ s.params.vdpPort + 1 → (vdpRead s).2.dev.rd q = s.dev.rd q

/-! ### The VDP's commands -/

/-- Latch phase (R752): with CMD zero, the value written is latched into CMD and nothing else changes. -/
def Obligations.LatchPhase : Prop :=
  ∀ s : State, s.vr 0 = 0 →
    (vdpWrite s).vr 0 = portValue s ∧ (∀ i, i ≠ 0 → (vdpWrite s).vr i = s.vr i) ∧
    vdpWrite s = { s with vreg := (vdpWrite s).vreg }

/-- The register selectors and the reserved ones with a command pending: the register named by CMD[11:8]
gets its value, CMD becomes zero, the dirty bit is set on top of MODE, and no palette entry, VRAM byte or
font byte changes. 47_vdp_commands.md R753, R754, R760 to R763, R774 (decisions D22, D23, D25, D45). -/
def Obligations.RegisterSelectors : Prop :=
  ∀ s : State, s.vr 0 ≠ 0 →
    let t := vdpWrite s
    let sel := ((s.vr 0).extractLsb' 0 5).toNat
    let R := (s.vr 0).extractLsb' 8 4
    let v := portValue s
    let put : Short → BitVec 4 → Short := fun new i => if i = R then new else s.vr i
    (sel < 4 ∨ 14 ≤ sel → t.cram = s.cram ∧ t.vram = s.vram ∧ t.cgram = s.cgram ∧ BeyondVdpSame s t) ∧
    (sel = 0 → AfterCommand t (put 0) 0x1000) ∧
    (sel = 1 → AfterCommand t (put (BitVec.ofNat 16 ((s.vr R).toNat / 256 * 256 + v.toNat % 256))) 0x1000) ∧
    (sel = 2 → AfterCommand t (put (BitVec.ofNat 16 (v.toNat % 256 * 256 + (s.vr R).toNat % 256))) 0x1000) ∧
    (sel = 3 → AfterCommand t (put v) 0x1000) ∧
    (14 ≤ sel → AfterCommand t s.vr 0)

/-- The palette selectors: the entry named by CMD[13:8] gets its value and no other entry changes.
47_vdp_commands.md R753, R754, R764 to R767 (decisions D22, D23, D25). -/
def Obligations.PaletteSelectors : Prop :=
  ∀ s : State, s.vr 0 ≠ 0 →
    let t := vdpWrite s
    let sel := ((s.vr 0).extractLsb' 0 5).toNat
    let E := (s.vr 0).extractLsb' 8 6
    let v := portValue s
    let puts : Short → Prop := fun new => ∀ i, t.cram.rd i = if i = E then new else s.cram.rd i
    (4 ≤ sel → sel < 8 →
      AfterCommand t s.vr 0x2000 ∧ t.vram = s.vram ∧ t.cgram = s.cgram ∧ BeyondVdpSame s t) ∧
    (sel = 4 → puts 0) ∧
    (sel = 5 → puts (BitVec.ofNat 16 ((s.cram.rd E).toNat / 256 * 256 + v.toNat % 256))) ∧
    (sel = 6 → puts (BitVec.ofNat 16 (v.toNat % 256 * 256 + (s.cram.rd E).toNat % 256))) ∧
    (sel = 7 → puts v)

/-- The VRAM selectors: one byte cleared or written, or a bulk copy or fill that wraps at the end of VRAM,
and no other byte of VRAM. The copy's source wraps in main memory. 47_vdp_commands.md R753, R754, R768 to
R772, R780, R781 (decisions D22, D23, D25 to D27, D43). -/
def Obligations.VramSelectors : Prop :=
  ∀ s : State, s.vr 0 ≠ 0 →
    let t := vdpWrite s
    let sel := ((s.vr 0).extractLsb' 0 5).toNat
    let r := (s.vr ((s.vr 0).extractLsb' 8 4)).toNat
    let r2 := s.vr ((s.vr 0).extractLsb' 12 4)
    let v := portValue s
    (8 ≤ sel → sel < 13 →
      AfterCommand t s.vr 0x4000 ∧ t.cram = s.cram ∧ t.cgram = s.cgram ∧ BeyondVdpSame s t) ∧
    (sel = 8 → ∀ a, t.vram.read a = if a = v.toNat then 0 else s.vram.read a) ∧
    (sel = 9 → ∀ a, t.vram.read a = if a = r then BitVec.ofNat 8 v.toNat else s.vram.read a) ∧
    (sel = 10 → ∀ a, a < 65536 → t.vram.read a =
      let i := (a + 65536 - r2.toNat) % 65536
      if i < v.toNat then s.mem.read ((r + i) % 65536) else s.vram.read a) ∧
    (sel = 11 → ∀ a, a < 65536 → t.vram.read a =
      if (a + 65536 - r) % 65536 < v.toNat then 0 else s.vram.read a) ∧
    (sel = 12 → ∀ a, a < 65536 → t.vram.read a =
      let i := (a + 65536 - r) % 65536
      if i < v.toNat then BitVec.ofNat 8 (if i % 2 = 0 then r2.toNat / 256 else r2.toNat) else s.vram.read a)

/-- COPY_CGRAM replaces all 1024 font bytes from main memory, the source wrapping, whatever the operand.
47_vdp_commands.md R753, R754, R773 (decisions D23, D25, D44). -/
def Obligations.CopyCgram : Prop :=
  ∀ s : State, s.vr 0 ≠ 0 → ((s.vr 0).extractLsb' 0 5).toNat = 13 →
    let t := vdpWrite s
    let r := (s.vr ((s.vr 0).extractLsb' 8 4)).toNat
    AfterCommand t s.vr 0x8000 ∧ t.cram = s.cram ∧ t.vram = s.vram ∧ BeyondVdpSame s t ∧
    ∀ o, o < 1024 → t.cgram.read o = s.mem.read ((r + o) % 65536)

/-- The read selectors, CMD[3:0]: a register, a palette entry, a VRAM byte, and zero for the others; a read
then cancels the pending command, so that the next write latches. 47_vdp_commands.md R756, R790 to R795
(decisions D21, D24). -/
def Obligations.ReadSelectors : Prop :=
  ∀ s : State,
    let sel := ((s.vr 0).extractLsb' 0 4).toNat
    let R := (s.vr 0).extractLsb' 8 4
    let u := (vdpRead s).2
    (sel = 0 → vdpResult s = s.vr R) ∧
    (sel = 1 → vdpResult s = s.cram.rd ((s.vr 0).extractLsb' 8 6)) ∧
    (sel = 2 → (vdpResult s).toNat = (s.vram.read (s.vr R).toNat).toNat) ∧
    (3 ≤ sel → vdpResult s = 0) ∧
    (vdpRead s).1 = BitVec.ofNat 8 ((vdpResult s).toNat / 256) ∧
    (vdpWrite u).vr 0 = portValue u ∧ (∀ i, i ≠ 0 → (vdpWrite u).vr i = s.vr i) ∧
    (vdpWrite u).cram = s.cram ∧ (vdpWrite u).vram = s.vram ∧ (vdpWrite u).cgram = s.cgram

/-! ### The renderer -/

/-- Step 0 of a frame: with VBLANK_EN set, the vertical-blank vector is entered; without, the frame goes on
to the skip test. Nothing else changes. 48_vdp_renderer.md R801, 60_exceptions.md R904 (decisions D18,
D29). -/
def Obligations.VerticalBlank : Prop :=
  ∀ s : State, s.phase = .render .vblank →
    ((s.vr 1).getLsbD 0 = true → step s = .next
      { s with phase := .run, pc := s.vr 5, callers := .render .skipTest :: s.callers }) ∧
    ((s.vr 1).getLsbD 0 = false → step s = .next { s with phase := .render .skipTest })

/-- Step 1 of a frame: with no dirty bit set `render` returns and changes nothing; else DIRTY_PAL is forced
and the rows begin. 48_vdp_renderer.md R802 (decision D29). -/
def Obligations.WholeFrameSkip : Prop :=
  ∀ s : State, s.phase = .render .skipTest →
    ((s.vr 1).extractLsb' 12 4 = 0 → step s = .next { s with phase := .idle }) ∧
    ((s.vr 1).extractLsb' 12 4 ≠ 0 → ∃ t, step s = .next t ∧
      t = { s with phase := .render (.rowStart 0), vreg := t.vreg } ∧
      t.vr 1 = s.vr 1 ||| 0x2000 ∧ ∀ i, i ≠ 1 → t.vr i = s.vr i)

/-- Steps a and b of a row: the sprite cache is rebuilt, and then, with HBLANK_EN set and the row the trigger
line, the horizontal-blank vector is entered. Nothing else changes. 48_vdp_renderer.md R804, R805,
60_exceptions.md R904 (decisions D18, D42). -/
def Obligations.HorizontalBlank : Prop :=
  ∀ (s : State) (y : Fin 224), s.phase = .render (.rowStart y) →
    let c := (buildSpriteCache y s).scache
    ((s.vr 1).getLsbD 1 = true → (s.vr 7).toNat = y.val → step s = .next
      { s with scache := c, phase := .run, pc := s.vr 6, callers := .render (.rowDraw y) :: s.callers }) ∧
    ((s.vr 1).getLsbD 1 = false ∨ (s.vr 7).toNat ≠ y.val → step s = .next
      { s with scache := c, phase := .render (.rowDraw y) })

/-- The sprite row cache (R810): some list of entry numbers is the walk. It begins with entry 0; the next
is the LINK of the one before, and the walk goes on exactly until a LINK of 0, a self-link, the 320th
entry or the 32nd match. The entries of the walk that match the row, in its order, fill the cache from slot
0, a zero sentinel follows them, and the slots above keep what they held. Decision D34; that the sentinel
is also written, in slot 32, after 32 matches is DEDUCED (log 15). -/
def Obligations.SpriteRowCache : Prop :=
  ∀ (s : State) (y : Nat), ∃ walk : List Nat,
    let link : Nat → Nat := fun i => (spriteEntry s i).w1.toNat % 256
    let found := spritesOf s y walk
    let slots := (buildSpriteCache y s).scache.cells
    walk[0]? = some 0 ∧ walk.length ≤ 320 ∧ found.length ≤ 32 ∧
    (∀ k i, walk[k]? = some i → k + 1 < walk.length →
      walk[k + 1]? = some (link i) ∧ link i ≠ 0 ∧ link i ≠ i ∧ (spritesOf s y (walk.take (k + 1))).length < 32) ∧
    (∀ i, walk.getLast? = some i → link i = 0 ∨ link i = i ∨ walk.length = 320 ∨ found.length = 32) ∧
    (∀ j, j < found.length → slots[j]? = found[j]?) ∧
    slots[found.length]? = some ⟨0, 0, 0, 0⟩ ∧
    (∀ j, found.length < j → slots[j]? = s.scache.cells[j]?)

/-- Step d of a row (R807): all four dirty bits are clear after it, on every row and so after the frame, and
the other MODE bits are kept; the palette cache is rebuilt in the row only if DIRTY_PAL was set. -/
def Obligations.DirtyBitsCleared : Prop :=
  ∀ (s : State) (y : Fin 224), s.phase = .render (.rowDraw y) → ∃ t, step s = .next t ∧
    t.vr 1 = s.vr 1 &&& 0x0FFF ∧ (∀ i, i ≠ 1 → t.vr i = s.vr i) ∧
    ((s.vr 1).getLsbD 13 = false → t.pcache = s.pcache) ∧
    ((s.vr 1).getLsbD 13 = true → t.pcache = (rebuildPalette s).pcache) ∧
    (t.phase = .idle ∨ ∃ z : Fin 224, z.val = y.val + 1 ∧ t.phase = .render (.rowStart z)) ∧
    (t.phase = .idle ↔ y.val = 223)

/-- The palette rebuild: every cache entry is the RGBA word of its palette entry, each 4-bit channel times
0x11, with alpha 0xFF; bits 15:12 of the entry are ignored. 48_vdp_renderer.md R806 (decision D30). -/
def Obligations.PaletteRebuild : Prop :=
  ∀ (s : State) (i : BitVec 6),
    let c := (s.cram.rd i).toNat
    let r := c / 256 % 16 * 0x11
    let g := c / 16 % 16 * 0x11
    let b := c % 16 * 0x11
    ((rebuildPalette s).pcache.rd i).toNat = r * 2 ^ 24 + g * 2 ^ 16 + b * 2 ^ 8 + 0xFF ∧
    rebuildPalette s = { s with pcache := (rebuildPalette s).pcache }

/-- What the renderer writes and reads (R809): every step of it keeps the CPU's memory and stacks, the device
registers, the palette, VRAM, CGRAM, every register but MODE and MODE[11:0]; only a row's drawing writes
pixels, every one of that row's and no other; only the rebuild writes the palette cache and only the row start the sprite
cache; and what a step writes depends on the registers, VRAM, CGRAM and the two caches alone, and on the
palette only in the rebuild. -/
def Obligations.RendererWritesAndReads : Prop :=
  ∀ (s t : State) (pt : RenderPoint), s.phase = .render pt → step s = .next t →
    RendererKeeps s t ∧
    (∀ a, t.buf.read a ≠ s.buf.read a → ∃ y, pt = .rowDraw y ∧ y.val * 320 ≤ a ∧ a < (y.val + 1) * 320) ∧
    (∀ y x, pt = .rowDraw y → x < 320 → t.buf.read (y.val * 320 + x) = pixel t x y) ∧
    (t.pcache ≠ s.pcache → (∃ y, pt = .rowDraw y) ∧ (s.vr 1).getLsbD 13 = true) ∧
    (t.scache ≠ s.scache → ∃ y, pt = .rowStart y) ∧
    (∀ s' t' : State, s'.phase = .render pt → step s' = .next t' →
      s'.vreg = s.vreg → s'.vram = s.vram → s'.cgram = s.cgram → s'.pcache = s.pcache → s'.scache = s.scache →
      s'.buf = s.buf → (∀ y, pt = .rowDraw y → (s.vr 1).getLsbD 13 = true → s'.cram = s.cram) →
      t'.vreg = t.vreg ∧ t'.pcache = t.pcache ∧ t'.scache = t.scache ∧ t'.buf = t.buf)

/-- A layer pixel is transparent for a zero nibble, and else its index is the palette row above the nibble
and its priority the entry's. 48_vdp_renderer.md R829; that ROW is bits 14:13 of the entry and PRI bit 15 is
R828, the spec's own decision D31 (log 1). -/
def Obligations.LayerPixelIndex : Prop :=
  ∀ (e : Short) (v : BitVec 4),
    (v = 0 → layerPixel e v = none) ∧
    (v ≠ 0 → ∃ p, layerPixel e v = some p ∧ p.pri = e.getLsbD 15 ∧
      p.index.toNat = (e.toNat / 2 ^ 13 % 4) <<< 4 ||| v.toNat)

/-- A plane's scroll counts modulo the grid, 512 pixels across and 256 down. 10_state.md R118,
48_vdp_renderer.md R826 (decisions D28, D33). -/
def Obligations.ScrollWrapsAtGrid : Prop :=
  ∀ (vram : Memory) (base scx scy scx' scy' : Short) (x y : Nat),
    scx.toNat % 512 = scx'.toNat % 512 → scy.toNat % 256 = scy'.toNat % 256 →
    planePixel vram base scx scy x y = planePixel vram base scx' scy' x y

/-- The text law: where TEXT_EN is set and the cell of a pixel is not zero, the pixel is the background
colour, its red, green and blue inverted once for the cell's high bit and once for the glyph's bit, and two
states that agree on what this reads draw the same pixel, whatever sprites and planes lie under it.
48_vdp_renderer.md R820 to R823 (decision D38). -/
def Obligations.TextLaw : Prop :=
  ∀ (s s' : State) (x y : Nat),
    let cell := ((s.vr 8).toNat + y / 8 * 40 + x / 8) % 65536
    let t := s.vram.read cell
    let glyph := 8 * (t.toNat % 128) + y % 8
    let bg := s.pcache.rd (BitVec.ofNat 6 ((s.vr 1).toNat / 16 % 4 * 16))
    (s.vr 1).getLsbD 2 = true → t ≠ 0 →
    pixel s x y = (if t.getLsbD 7 = (s.cgram.read glyph).getLsbD (7 - x % 8) then bg else bg ^^^ 0xFFFFFF00) ∧
    (s'.vr 1 = s.vr 1 → s'.vr 8 = s.vr 8 → s'.vram.read cell = t → s'.cgram.read glyph = s.cgram.read glyph →
      s'.pcache = s.pcache → pixel s' x y = pixel s x y)

/-- Priority resolution where no text is drawn: the first opaque priority pixel of sprite, plane A, plane B,
else the first opaque one, else the background entry of BG_ROW. 48_vdp_renderer.md R833, R834 (decisions
D29, D37). -/
def Obligations.PriorityResolution : Prop :=
  ∀ (s : State) (x y : Nat),
    let l := spritePixel s x y
    let a := planePixel s.vram (s.vr 10) (s.vr 12) (s.vr 13) x y
    let b := planePixel s.vram (s.vr 11) (s.vr 14) (s.vr 15) x y
    let high : Option LayerPixel → Prop := fun o => ∃ p, o = some p ∧ p.pri = true
    let low : Option LayerPixel → Prop := fun o => ¬ high o
    (s.vr 1).getLsbD 2 = false ∨ s.vram.read (((s.vr 8).toNat + y / 8 * 40 + x / 8) % 65536) = 0 →
    (∀ p, l = some p → p.pri = true → pixel s x y = s.pcache.rd p.index) ∧
    (∀ p, low l → a = some p → p.pri = true → pixel s x y = s.pcache.rd p.index) ∧
    (∀ p, low l → low a → b = some p → p.pri = true → pixel s x y = s.pcache.rd p.index) ∧
    (∀ p, low l → low a → low b → l = some p → pixel s x y = s.pcache.rd p.index) ∧
    (∀ p, low a → low b → l = none → a = some p → pixel s x y = s.pcache.rd p.index) ∧
    (∀ p, low b → l = none → a = none → b = some p → pixel s x y = s.pcache.rd p.index) ∧
    (l = none → a = none → b = none →
      pixel s x y = s.pcache.rd (BitVec.ofNat 6 ((s.vr 1).toNat / 16 % 4 * 16)))

/-- A frame that is drawn and calls no vector: after its two steps and the two of each row the host has
control again, every pixel of the buffer is the pixel of its row and column, the palette cache is rebuilt,
the dirty bits are clear, and nothing that R809 keeps has changed. What a row's sprites show does not depend
on the slots that an earlier row left above the sentinel. 48_vdp_renderer.md R803, R807, R809; that a row is
two steps is DESIGN CHOICE (log 13). -/
def Obligations.FrameIsDrawn : Prop :=
  ∀ s : State, s.phase = .render .vblank → (s.vr 1).getLsbD 0 = false → (s.vr 1).getLsbD 1 = false →
    (s.vr 1).extractLsb' 12 4 ≠ 0 →
    ∃ t : State, Host.Core.run Sys2Proof.core 450 s = .next t ∧ t.phase = .idle ∧ RendererKeeps s t ∧
      (t.vr 1).extractLsb' 12 4 = 0 ∧ t.pcache = (rebuildPalette s).pcache ∧
      t.callers = s.callers ∧ t.pc = s.pc ∧ t.hostCalls = s.hostCalls ∧
      ∀ x y, x < 320 → y < 224 → t.buf.read (y * 320 + x) = framePixel s x y

/-! ### The machine as a whole -/

/-- Every step keeps every memory in its canonical form, with no address outside it (R101, R121, R122, R800):
no access is out of range. The canonical form is the model's. -/
def Obligations.StepKeepsMemoriesWellFormed : Prop :=
  ∀ s t : State, s.wf = true → step s = .next t → t.wf = true

/-- With no external device, what executes and who called it stay as R903 and R931 say: an invocation is the
host's or a blank vector's, and nothing nests in a blank vector. -/
def Obligations.StepKeepsNesting : Prop :=
  ∀ s t : State, s.closed = true → step s = .next t → t.closed = true

/-- The machine after startup satisfies both invariants. -/
def Obligations.ResetSatisfiesInvariants : Prop :=
  State.reset.wf = true ∧ State.reset.closed = true

/-- Startup: every byte and field of the aggregate is zero and no invocation is in progress. 10_state.md R126,
70_reset_and_hazards.md R950 (decision D15). -/
def Obligations.ResetState : Prop :=
  let s := State.reset
  (∀ a, s.mem.read a = 0) ∧ (∀ a, s.vram.read a = 0) ∧ (∀ a, s.cgram.read a = 0) ∧
  s.wst.ptr = 0 ∧ s.rst.ptr = 0 ∧ (∀ j, s.wst.dat.rd j = 0) ∧ (∀ j, s.rst.dat.rd j = 0) ∧
  (∀ p, s.dev.rd p = 0) ∧ (∀ i, s.vr i = 0) ∧ (∀ i, s.cram.rd i = 0) ∧ (∀ i, s.pcache.rd i = 0) ∧
  (∀ e ∈ s.scache.cells, e = ⟨0, 0, 0, 0⟩) ∧ s.phase = .idle ∧ s.callers = []

/-- Registration is static (R703): no step of an instruction, a handler, the renderer or the host changes the
dispatch tables or any other parameter, and a port has a read handler, a write handler, both or neither,
independently. -/
def Obligations.RegistrationIsStatic : Prop :=
  (∀ s t : State, step s = .next t → t.params = s.params ∧
    ∀ p, readHandler t.params p = readHandler s.params p ∧ writeHandler t.params p = writeHandler s.params p) ∧
  ∀ (c : Params) (p : Byte), p ≠ c.vdpPort → p ≠ c.vdpPort + 1 →
    (readHandler c p = .ext ↔ p ∈ c.extReadPorts) ∧ (readHandler c p = .raw ↔ p ∉ c.extReadPorts) ∧
    (writeHandler c p = .ext ↔ p ∈ c.extWritePorts) ∧ (writeHandler c p = .raw ↔ p ∉ c.extWritePorts)

/-- The host's calls: `run` starts an invocation at its address and changes nothing of the machine, `render`
starts a frame on its buffer, and the bulk load copies its image, wrapping, later bytes over earlier ones,
and changes nothing else. 60_exceptions.md R930, R931, 70_reset_and_hazards.md R951, 40_execution.md R400
(decisions D16, D46); the queue of calls is DESIGN CHOICE (log 8). -/
def Obligations.HostCallsServed : Prop :=
  ∀ (s : State) (rest : List HostCall), s.phase = .idle →
    (∀ a, s.hostCalls = .run a :: rest →
      step s = .next { s with hostCalls := rest, phase := .run, pc := a }) ∧
    (∀ buf, s.hostCalls = .render buf :: rest →
      step s = .next { s with hostCalls := rest, phase := .render .vblank, buf := buf }) ∧
    (∀ off image, s.hostCalls = .load off image :: rest → ∃ t, step s = .next t ∧
      t = { s with hostCalls := rest, mem := t.mem } ∧
      (∀ i, i < image.length → (∀ j, i < j → j < image.length → (off.toNat + j) % 65536 ≠ (off.toNat + i) % 65536) →
        some (t.mem.read ((off.toNat + i) % 65536)) = image[i]?) ∧
      (∀ a, (∀ i, i < image.length → (off.toNat + i) % 65536 ≠ a) → t.mem.read a = s.mem.read a)) ∧
    (s.hostCalls = [] → step s = .next s)

/-- One turn of an external handler, whatever it does (its reply is a free value, log 4). The program
counter, the callers, the result, the output buffer and the host's side are not its to change. It starts a
nested invocation, whose caller it is with the program counter it was called at, or, beyond a finite
MAX_NEST, stops (log 5); or it returns a byte, and then the rest of the instruction (ResumedInstruction
says what that is) runs on the state the handler left, and is complete or waits for its next handler. Where
the instruction's bytes wrapped the program counter, RUN_OFF is consulted once it is complete: its three
predicates are log 12, the counter `free` is log 7, that the check comes after the handler is DEDUCED
(log 14), and what the invocation's end leaves is InvocationEndsForItsCaller. 40_execution.md R408 to R410,
R412, 46_device_bus.md R702, R710 (decisions D11, D12, D17, D19, D21). -/
def Obligations.ExternalHandlerTurn : Prop :=
  ∀ (s : State) (h : HandlerCall), s.phase = .handler h →
    let reply := Config.extReply s.free (resumeDir h.resume) h.port s
    let left := reply.effects.foldl State.apply (s.setFree (s.free + 1))
    (left.pc = s.pc ∧ left.callers = s.callers ∧ left.lastResult = s.lastResult ∧ left.buf = s.buf ∧
      left.hostCalls = s.hostCalls ∧ left.params = s.params ∧ left.phase = s.phase) ∧
    ((∃ a, reply.next = .run a ∧
      (s.params.maxNest = none ∨ (∃ n, s.params.maxNest = some n ∧ nestDepth s.callers < n) →
        step s = .next { left with pc := a, phase := .run, callers := .handler h s.pc :: s.callers }) ∧
      (∀ n, s.params.maxNest = some n → n ≤ nestDepth s.callers → step s = .fault .nestLimit)) ∨
     (∃ v, reply.next = .ret v ∧
      let u := resumeInstr h.resume v { left with phase := .run }
      (u.pc = s.pc ∧ u.callers = s.callers ∧ u.lastResult = s.lastResult ∧ u.buf = s.buf ∧
        u.hostCalls = s.hostCalls ∧ u.params = s.params) ∧
      ((∃ p r, u.phase = .handler ⟨p, r, false⟩ ∧ (ExtRead s.params p ∨ ExtWrite s.params p) ∧
        step s = .next (u.setPhase (.handler ⟨p, r, h.wrapped⟩))) ∨
       (u.phase = .run ∧
        (h.wrapped = false ∨ s.params.runOff = .never → step s = .next u) ∧
        (h.wrapped = true → s.params.runOff = .alwaysAtWrap → step s = .next (u.leave .ranOff)) ∧
        (h.wrapped = true → s.params.runOff = .mayAtWrap →
          step s = .next ((u.setFree (u.free + 1)).leave .ranOff) ∨ step s = .next (u.setFree (u.free + 1)))))))

/-- The rest of an instruction whose external handler returned the byte `v`, in the state `s` the handler
left: DEI pushes `v` where the handler left the pointer; DEI2 reads the next port, which may call a handler
in turn, and pushes the high byte and then the low byte, one of them `v`; DEO2 writes its low byte to the
next port; and after the last write nothing is left. 40_execution.md R408, 46_device_bus.md R704, R705
(decisions D1, D6, D11). -/
def Obligations.ResumedInstruction : Prop :=
  ∀ (s : State) (ret : Bool) (p v w : Byte),
    PushedOnly ret s (resumeInstr (.readByte ret) v s) [v] ∧
    (ExtRead s.params p →
      resumeInstr (.readHi ret p) v s = { s with phase := .handler ⟨p, .readLo ret v, false⟩ }) ∧
    (¬ ExtRead s.params p →
      PushedOnly ret (devRead p s).2 (resumeInstr (.readHi ret p) v s) [v, (devRead p s).1]) ∧
    PushedOnly ret s (resumeInstr (.readLo ret w) v s) [w, v] ∧
    (∃ u, DevOnly s u ∧ u.dev.rd p = w ∧ (∀ q, q ≠ p → u.dev.rd q = s.dev.rd q) ∧
      (PlainWrite s.params p → resumeInstr (.writeNext p w) v s = u) ∧
      (p = s.params.vdpPort + 1 → resumeInstr (.writeNext p w) v s = vdpWrite u) ∧
      (ExtWrite s.params p →
        resumeInstr (.writeNext p w) v s = { u with phase := .handler ⟨p, .writeDone, false⟩ })) ∧
    resumeInstr .writeDone v s = s

/-! ### The layers' pixels -/

/-- A plane's pixel: the entry of its cell of the 64 x 32 grid after the scroll, and the nibble of the
entry's pattern there, mirrored by its two flips. 48_vdp_renderer.md R825 to R829 (decisions D1, D31 to
D33). -/
def Obligations.PlanePixelValue : Prop :=
  ∀ (vram : Memory) (base scx scy : Short) (x y : Nat),
    let px := (x + scx.toNat) % 512
    let py := (y + scy.toNat) % 256
    let e := wordAt vram (base.toNat + 2 * (py / 8 * 64 + px / 8))
    let tx := if e / 2048 % 2 = 1 then 7 - px % 8 else px % 8
    let ty := if e / 4096 % 2 = 1 then 7 - py % 8 else py % 8
    Shows (planePixel vram base scx scy x y) e (nibbleAt vram (e % 2048) tx ty)

/-- The sprite layer's pixel: of the cached sprites before the first slot with a zero pattern/flag word, the
first opaque one with priority, else the first opaque one, else it is transparent. 48_vdp_renderer.md R824,
R827 to R829 (decisions D31, D32, D35, D36). -/
def Obligations.SpritePixelValue : Prop :=
  ∀ (s : State) (x y : Nat),
    let shown := s.scache.cells.takeWhile (fun e => e.w0 != 0)
    let v : SpriteSlot → Nat := fun e => spriteNibble s.vram e x y
    let pri : SpriteSlot → Prop := fun e => 32768 ≤ e.w0.toNat
    ((∀ e ∈ shown, v e = 0) → spritePixel s x y = none) ∧
    (∀ before e after, shown = before ++ e :: after → v e ≠ 0 → pri e →
      (∀ f ∈ before, v f = 0 ∨ ¬ pri f) → Shows (spritePixel s x y) e.w0.toNat (v e)) ∧
    (∀ before e after, shown = before ++ e :: after → v e ≠ 0 → (∀ f ∈ shown, v f = 0 ∨ ¬ pri f) →
      (∀ f ∈ before, v f = 0) → Shows (spritePixel s x y) e.w0.toNat (v e))

/-- An entry of the sprite list is four words at SPRITE_BASE plus 8 times its number, and it matches a row
when its pattern is not 0, one of the 320 columns lies within its width, and the row within its height,
both counted modulo 512. 48_vdp_renderer.md R811, R812, R825 (decisions D1, D34). -/
def Obligations.SpriteEntryAndMatch : Prop :=
  (∀ (s : State) (i : Nat),
    let a := (s.vr 9).toNat + 8 * i
    (spriteEntry s i).w0.toNat = wordAt s.vram a ∧ (spriteEntry s i).w1.toNat = wordAt s.vram (a + 2) ∧
    (spriteEntry s i).x.toNat = wordAt s.vram (a + 4) ∧ (spriteEntry s i).y.toNat = wordAt s.vram (a + 6)) ∧
  ∀ (e : SpriteSlot) (y : Nat), spriteMatch e y = true ↔
    e.w0.toNat % 2048 ≠ 0 ∧
    (∃ c, c < 320 ∧ (c + 512 - e.x.toNat % 512) % 512 < spritePixels (e.w1.toNat / 1024)) ∧
    (y + 512 - e.y.toNat % 512) % 512 < spritePixels (e.w1.toNat / 256)

/-- What the end of an invocation leaves, with result 0 by BRK or result 1 by RUN_OFF: the result, and its
caller going on, which is the host, the renderer at the step after the vector, or an external handler with
the program counter of the invocation that called it. Nothing else changes: the aggregate is as the
invocation left it. 40_execution.md R400, R410, R412, 60_exceptions.md R905 (decisions D12, D17, D18); that
the result is kept in lastResult is the model's (log 10), and so is what the program counter holds while no
invocation runs (log 6). -/
def Obligations.InvocationEndsForItsCaller : Prop :=
  ∀ (s : State) (r : RunResult),
    (s.callers = [] → s.leave r = { s with lastResult := some r, phase := .idle }) ∧
    (∀ pt rest, s.callers = .render pt :: rest →
      s.leave r = { s with lastResult := some r, callers := rest, phase := .render pt }) ∧
    (∀ h pc rest, s.callers = .handler h pc :: rest →
      s.leave r = { s with lastResult := some r, callers := rest, pc := pc, phase := .handler h })
end

