-- ==== Sys2Proof/Laws/Regs.lean ====
section
/-! SUPPORT. Read after write on register files. -/

namespace Sys2Proof.Machine

theorem Bank.rd_eq_getElem {k : Nat} {α : Type} (b : Bank k α) (i : BitVec k) :
    b.rd i = b.cells[i.toNat]'(lt_of_lt_of_eq i.isLt b.len.symm) := rfl

@[simp] theorem Bank.rd_wr_same {k : Nat} {α : Type} (b : Bank k α) (i : BitVec k) (v : α) :
    (b.wr i v).rd i = v := by
  simp [Bank.rd_eq_getElem, Bank.wr, Regs.put]

theorem Bank.rd_wr_ne {k : Nat} {α : Type} (b : Bank k α) (i j : BitVec k) (v : α) (h : i ≠ j) :
    (b.wr i v).rd j = b.rd j := by
  have hn : i.toNat ≠ j.toNat := fun e => h (BitVec.eq_of_toNat_eq e)
  simp [Bank.rd_eq_getElem, Bank.wr, Regs.put, hn]

theorem Bank.rd_wr {k : Nat} {α : Type} (b : Bank k α) (i j : BitVec k) (v : α) :
    (b.wr i v).rd j = if i = j then v else b.rd j := by
  by_cases h : i = j
  · subst h; simp
  · simp [h, Bank.rd_wr_ne b i j v h]

@[simp] theorem Bank.rd_all {k : Nat} {α : Type} (v : α) (i : BitVec k) :
    Bank.rd (Regs.all (2 ^ k) v) i = v := by
  simp [Bank.rd_eq_getElem, Regs.all]

@[simp] theorem Bank.rd_mapAll {k : Nat} {α β : Type} (b : Bank k α) (f : α → β) (i : BitVec k) :
    Bank.rd (Regs.mapAll b f) i = f (b.rd i) := by
  simp [Bank.rd_eq_getElem, Regs.mapAll]

theorem Regs.ext_cells {n : Nat} {α : Type} {b c : Regs n α} (h : b.cells = c.cells) : b = c := by
  cases b; cases c; cases h; rfl

/-- Two files that read the same everywhere are equal. -/
theorem Bank.ext_rd {k : Nat} {α : Type} {b c : Bank k α} (h : ∀ i, b.rd i = c.rd i) : b = c := by
  apply Regs.ext_cells
  apply List.ext_getElem (b.len.trans c.len.symm)
  intro n h1 h2
  have hn : n < 2 ^ k := lt_of_lt_of_eq h1 b.len
  have := h (BitVec.ofNat k n)
  simpa [Bank.rd_eq_getElem, Nat.mod_eq_of_lt hn] using this

@[simp] theorem Regs.cells_put {n : Nat} {α : Type} (b : Regs n α) (i : Nat) (v : α) :
    (b.put i v).cells = b.cells.set i v := rfl

@[simp] theorem Regs.cells_length {n : Nat} {α : Type} (b : Regs n α) : b.cells.length = n := b.len

end Sys2Proof.Machine
end

