-- ==== Sys2Proof/Laws/State.lean ====
section
/-! SUPPORT. One lemma per field per update of State. -/

namespace Sys2Proof.Machine

@[simp] theorem State.setMem_mem (s : State) (v : Memory) : (s.setMem v).mem = v := rfl
@[simp] theorem State.setMem_wst (s : State) (v : Memory) : (s.setMem v).wst = s.wst := rfl
@[simp] theorem State.setMem_rst (s : State) (v : Memory) : (s.setMem v).rst = s.rst := rfl
@[simp] theorem State.setMem_dev (s : State) (v : Memory) : (s.setMem v).dev = s.dev := rfl
@[simp] theorem State.setMem_vreg (s : State) (v : Memory) : (s.setMem v).vreg = s.vreg := rfl
@[simp] theorem State.setMem_cram (s : State) (v : Memory) : (s.setMem v).cram = s.cram := rfl
@[simp] theorem State.setMem_pcache (s : State) (v : Memory) : (s.setMem v).pcache = s.pcache := rfl
@[simp] theorem State.setMem_vram (s : State) (v : Memory) : (s.setMem v).vram = s.vram := rfl
@[simp] theorem State.setMem_cgram (s : State) (v : Memory) : (s.setMem v).cgram = s.cgram := rfl
@[simp] theorem State.setMem_scache (s : State) (v : Memory) : (s.setMem v).scache = s.scache := rfl
@[simp] theorem State.setMem_pc (s : State) (v : Memory) : (s.setMem v).pc = s.pc := rfl
@[simp] theorem State.setMem_phase (s : State) (v : Memory) : (s.setMem v).phase = s.phase := rfl
@[simp] theorem State.setMem_callers (s : State) (v : Memory) : (s.setMem v).callers = s.callers := rfl
@[simp] theorem State.setMem_lastResult (s : State) (v : Memory) : (s.setMem v).lastResult = s.lastResult := rfl
@[simp] theorem State.setMem_buf (s : State) (v : Memory) : (s.setMem v).buf = s.buf := rfl
@[simp] theorem State.setMem_hostCalls (s : State) (v : Memory) : (s.setMem v).hostCalls = s.hostCalls := rfl
@[simp] theorem State.setMem_params (s : State) (v : Memory) : (s.setMem v).params = s.params := rfl
@[simp] theorem State.setMem_free (s : State) (v : Memory) : (s.setMem v).free = s.free := rfl

@[simp] theorem State.setWst_mem (s : State) (v : Stack) : (s.setWst v).mem = s.mem := rfl
@[simp] theorem State.setWst_wst (s : State) (v : Stack) : (s.setWst v).wst = v := rfl
@[simp] theorem State.setWst_rst (s : State) (v : Stack) : (s.setWst v).rst = s.rst := rfl
@[simp] theorem State.setWst_dev (s : State) (v : Stack) : (s.setWst v).dev = s.dev := rfl
@[simp] theorem State.setWst_vreg (s : State) (v : Stack) : (s.setWst v).vreg = s.vreg := rfl
@[simp] theorem State.setWst_cram (s : State) (v : Stack) : (s.setWst v).cram = s.cram := rfl
@[simp] theorem State.setWst_pcache (s : State) (v : Stack) : (s.setWst v).pcache = s.pcache := rfl
@[simp] theorem State.setWst_vram (s : State) (v : Stack) : (s.setWst v).vram = s.vram := rfl
@[simp] theorem State.setWst_cgram (s : State) (v : Stack) : (s.setWst v).cgram = s.cgram := rfl
@[simp] theorem State.setWst_scache (s : State) (v : Stack) : (s.setWst v).scache = s.scache := rfl
@[simp] theorem State.setWst_pc (s : State) (v : Stack) : (s.setWst v).pc = s.pc := rfl
@[simp] theorem State.setWst_phase (s : State) (v : Stack) : (s.setWst v).phase = s.phase := rfl
@[simp] theorem State.setWst_callers (s : State) (v : Stack) : (s.setWst v).callers = s.callers := rfl
@[simp] theorem State.setWst_lastResult (s : State) (v : Stack) : (s.setWst v).lastResult = s.lastResult := rfl
@[simp] theorem State.setWst_buf (s : State) (v : Stack) : (s.setWst v).buf = s.buf := rfl
@[simp] theorem State.setWst_hostCalls (s : State) (v : Stack) : (s.setWst v).hostCalls = s.hostCalls := rfl
@[simp] theorem State.setWst_params (s : State) (v : Stack) : (s.setWst v).params = s.params := rfl
@[simp] theorem State.setWst_free (s : State) (v : Stack) : (s.setWst v).free = s.free := rfl

@[simp] theorem State.setRst_mem (s : State) (v : Stack) : (s.setRst v).mem = s.mem := rfl
@[simp] theorem State.setRst_wst (s : State) (v : Stack) : (s.setRst v).wst = s.wst := rfl
@[simp] theorem State.setRst_rst (s : State) (v : Stack) : (s.setRst v).rst = v := rfl
@[simp] theorem State.setRst_dev (s : State) (v : Stack) : (s.setRst v).dev = s.dev := rfl
@[simp] theorem State.setRst_vreg (s : State) (v : Stack) : (s.setRst v).vreg = s.vreg := rfl
@[simp] theorem State.setRst_cram (s : State) (v : Stack) : (s.setRst v).cram = s.cram := rfl
@[simp] theorem State.setRst_pcache (s : State) (v : Stack) : (s.setRst v).pcache = s.pcache := rfl
@[simp] theorem State.setRst_vram (s : State) (v : Stack) : (s.setRst v).vram = s.vram := rfl
@[simp] theorem State.setRst_cgram (s : State) (v : Stack) : (s.setRst v).cgram = s.cgram := rfl
@[simp] theorem State.setRst_scache (s : State) (v : Stack) : (s.setRst v).scache = s.scache := rfl
@[simp] theorem State.setRst_pc (s : State) (v : Stack) : (s.setRst v).pc = s.pc := rfl
@[simp] theorem State.setRst_phase (s : State) (v : Stack) : (s.setRst v).phase = s.phase := rfl
@[simp] theorem State.setRst_callers (s : State) (v : Stack) : (s.setRst v).callers = s.callers := rfl
@[simp] theorem State.setRst_lastResult (s : State) (v : Stack) : (s.setRst v).lastResult = s.lastResult := rfl
@[simp] theorem State.setRst_buf (s : State) (v : Stack) : (s.setRst v).buf = s.buf := rfl
@[simp] theorem State.setRst_hostCalls (s : State) (v : Stack) : (s.setRst v).hostCalls = s.hostCalls := rfl
@[simp] theorem State.setRst_params (s : State) (v : Stack) : (s.setRst v).params = s.params := rfl
@[simp] theorem State.setRst_free (s : State) (v : Stack) : (s.setRst v).free = s.free := rfl

@[simp] theorem State.setDev_mem (s : State) (v : Bank 8 Byte) : (s.setDev v).mem = s.mem := rfl
@[simp] theorem State.setDev_wst (s : State) (v : Bank 8 Byte) : (s.setDev v).wst = s.wst := rfl
@[simp] theorem State.setDev_rst (s : State) (v : Bank 8 Byte) : (s.setDev v).rst = s.rst := rfl
@[simp] theorem State.setDev_dev (s : State) (v : Bank 8 Byte) : (s.setDev v).dev = v := rfl
@[simp] theorem State.setDev_vreg (s : State) (v : Bank 8 Byte) : (s.setDev v).vreg = s.vreg := rfl
@[simp] theorem State.setDev_cram (s : State) (v : Bank 8 Byte) : (s.setDev v).cram = s.cram := rfl
@[simp] theorem State.setDev_pcache (s : State) (v : Bank 8 Byte) : (s.setDev v).pcache = s.pcache := rfl
@[simp] theorem State.setDev_vram (s : State) (v : Bank 8 Byte) : (s.setDev v).vram = s.vram := rfl
@[simp] theorem State.setDev_cgram (s : State) (v : Bank 8 Byte) : (s.setDev v).cgram = s.cgram := rfl
@[simp] theorem State.setDev_scache (s : State) (v : Bank 8 Byte) : (s.setDev v).scache = s.scache := rfl
@[simp] theorem State.setDev_pc (s : State) (v : Bank 8 Byte) : (s.setDev v).pc = s.pc := rfl
@[simp] theorem State.setDev_phase (s : State) (v : Bank 8 Byte) : (s.setDev v).phase = s.phase := rfl
@[simp] theorem State.setDev_callers (s : State) (v : Bank 8 Byte) : (s.setDev v).callers = s.callers := rfl
@[simp] theorem State.setDev_lastResult (s : State) (v : Bank 8 Byte) : (s.setDev v).lastResult = s.lastResult := rfl
@[simp] theorem State.setDev_buf (s : State) (v : Bank 8 Byte) : (s.setDev v).buf = s.buf := rfl
@[simp] theorem State.setDev_hostCalls (s : State) (v : Bank 8 Byte) : (s.setDev v).hostCalls = s.hostCalls := rfl
@[simp] theorem State.setDev_params (s : State) (v : Bank 8 Byte) : (s.setDev v).params = s.params := rfl
@[simp] theorem State.setDev_free (s : State) (v : Bank 8 Byte) : (s.setDev v).free = s.free := rfl

@[simp] theorem State.setVreg_mem (s : State) (v : Bank 4 Short) : (s.setVreg v).mem = s.mem := rfl
@[simp] theorem State.setVreg_wst (s : State) (v : Bank 4 Short) : (s.setVreg v).wst = s.wst := rfl
@[simp] theorem State.setVreg_rst (s : State) (v : Bank 4 Short) : (s.setVreg v).rst = s.rst := rfl
@[simp] theorem State.setVreg_dev (s : State) (v : Bank 4 Short) : (s.setVreg v).dev = s.dev := rfl
@[simp] theorem State.setVreg_vreg (s : State) (v : Bank 4 Short) : (s.setVreg v).vreg = v := rfl
@[simp] theorem State.setVreg_cram (s : State) (v : Bank 4 Short) : (s.setVreg v).cram = s.cram := rfl
@[simp] theorem State.setVreg_pcache (s : State) (v : Bank 4 Short) : (s.setVreg v).pcache = s.pcache := rfl
@[simp] theorem State.setVreg_vram (s : State) (v : Bank 4 Short) : (s.setVreg v).vram = s.vram := rfl
@[simp] theorem State.setVreg_cgram (s : State) (v : Bank 4 Short) : (s.setVreg v).cgram = s.cgram := rfl
@[simp] theorem State.setVreg_scache (s : State) (v : Bank 4 Short) : (s.setVreg v).scache = s.scache := rfl
@[simp] theorem State.setVreg_pc (s : State) (v : Bank 4 Short) : (s.setVreg v).pc = s.pc := rfl
@[simp] theorem State.setVreg_phase (s : State) (v : Bank 4 Short) : (s.setVreg v).phase = s.phase := rfl
@[simp] theorem State.setVreg_callers (s : State) (v : Bank 4 Short) : (s.setVreg v).callers = s.callers := rfl
@[simp] theorem State.setVreg_lastResult (s : State) (v : Bank 4 Short) : (s.setVreg v).lastResult = s.lastResult := rfl
@[simp] theorem State.setVreg_buf (s : State) (v : Bank 4 Short) : (s.setVreg v).buf = s.buf := rfl
@[simp] theorem State.setVreg_hostCalls (s : State) (v : Bank 4 Short) : (s.setVreg v).hostCalls = s.hostCalls := rfl
@[simp] theorem State.setVreg_params (s : State) (v : Bank 4 Short) : (s.setVreg v).params = s.params := rfl
@[simp] theorem State.setVreg_free (s : State) (v : Bank 4 Short) : (s.setVreg v).free = s.free := rfl

@[simp] theorem State.setCram_mem (s : State) (v : Bank 6 Short) : (s.setCram v).mem = s.mem := rfl
@[simp] theorem State.setCram_wst (s : State) (v : Bank 6 Short) : (s.setCram v).wst = s.wst := rfl
@[simp] theorem State.setCram_rst (s : State) (v : Bank 6 Short) : (s.setCram v).rst = s.rst := rfl
@[simp] theorem State.setCram_dev (s : State) (v : Bank 6 Short) : (s.setCram v).dev = s.dev := rfl
@[simp] theorem State.setCram_vreg (s : State) (v : Bank 6 Short) : (s.setCram v).vreg = s.vreg := rfl
@[simp] theorem State.setCram_cram (s : State) (v : Bank 6 Short) : (s.setCram v).cram = v := rfl
@[simp] theorem State.setCram_pcache (s : State) (v : Bank 6 Short) : (s.setCram v).pcache = s.pcache := rfl
@[simp] theorem State.setCram_vram (s : State) (v : Bank 6 Short) : (s.setCram v).vram = s.vram := rfl
@[simp] theorem State.setCram_cgram (s : State) (v : Bank 6 Short) : (s.setCram v).cgram = s.cgram := rfl
@[simp] theorem State.setCram_scache (s : State) (v : Bank 6 Short) : (s.setCram v).scache = s.scache := rfl
@[simp] theorem State.setCram_pc (s : State) (v : Bank 6 Short) : (s.setCram v).pc = s.pc := rfl
@[simp] theorem State.setCram_phase (s : State) (v : Bank 6 Short) : (s.setCram v).phase = s.phase := rfl
@[simp] theorem State.setCram_callers (s : State) (v : Bank 6 Short) : (s.setCram v).callers = s.callers := rfl
@[simp] theorem State.setCram_lastResult (s : State) (v : Bank 6 Short) : (s.setCram v).lastResult = s.lastResult := rfl
@[simp] theorem State.setCram_buf (s : State) (v : Bank 6 Short) : (s.setCram v).buf = s.buf := rfl
@[simp] theorem State.setCram_hostCalls (s : State) (v : Bank 6 Short) : (s.setCram v).hostCalls = s.hostCalls := rfl
@[simp] theorem State.setCram_params (s : State) (v : Bank 6 Short) : (s.setCram v).params = s.params := rfl
@[simp] theorem State.setCram_free (s : State) (v : Bank 6 Short) : (s.setCram v).free = s.free := rfl

@[simp] theorem State.setPcache_mem (s : State) (v : Bank 6 Pixel) : (s.setPcache v).mem = s.mem := rfl
@[simp] theorem State.setPcache_wst (s : State) (v : Bank 6 Pixel) : (s.setPcache v).wst = s.wst := rfl
@[simp] theorem State.setPcache_rst (s : State) (v : Bank 6 Pixel) : (s.setPcache v).rst = s.rst := rfl
@[simp] theorem State.setPcache_dev (s : State) (v : Bank 6 Pixel) : (s.setPcache v).dev = s.dev := rfl
@[simp] theorem State.setPcache_vreg (s : State) (v : Bank 6 Pixel) : (s.setPcache v).vreg = s.vreg := rfl
@[simp] theorem State.setPcache_cram (s : State) (v : Bank 6 Pixel) : (s.setPcache v).cram = s.cram := rfl
@[simp] theorem State.setPcache_pcache (s : State) (v : Bank 6 Pixel) : (s.setPcache v).pcache = v := rfl
@[simp] theorem State.setPcache_vram (s : State) (v : Bank 6 Pixel) : (s.setPcache v).vram = s.vram := rfl
@[simp] theorem State.setPcache_cgram (s : State) (v : Bank 6 Pixel) : (s.setPcache v).cgram = s.cgram := rfl
@[simp] theorem State.setPcache_scache (s : State) (v : Bank 6 Pixel) : (s.setPcache v).scache = s.scache := rfl
@[simp] theorem State.setPcache_pc (s : State) (v : Bank 6 Pixel) : (s.setPcache v).pc = s.pc := rfl
@[simp] theorem State.setPcache_phase (s : State) (v : Bank 6 Pixel) : (s.setPcache v).phase = s.phase := rfl
@[simp] theorem State.setPcache_callers (s : State) (v : Bank 6 Pixel) : (s.setPcache v).callers = s.callers := rfl
@[simp] theorem State.setPcache_lastResult (s : State) (v : Bank 6 Pixel) : (s.setPcache v).lastResult = s.lastResult := rfl
@[simp] theorem State.setPcache_buf (s : State) (v : Bank 6 Pixel) : (s.setPcache v).buf = s.buf := rfl
@[simp] theorem State.setPcache_hostCalls (s : State) (v : Bank 6 Pixel) : (s.setPcache v).hostCalls = s.hostCalls := rfl
@[simp] theorem State.setPcache_params (s : State) (v : Bank 6 Pixel) : (s.setPcache v).params = s.params := rfl
@[simp] theorem State.setPcache_free (s : State) (v : Bank 6 Pixel) : (s.setPcache v).free = s.free := rfl

@[simp] theorem State.setVram_mem (s : State) (v : Memory) : (s.setVram v).mem = s.mem := rfl
@[simp] theorem State.setVram_wst (s : State) (v : Memory) : (s.setVram v).wst = s.wst := rfl
@[simp] theorem State.setVram_rst (s : State) (v : Memory) : (s.setVram v).rst = s.rst := rfl
@[simp] theorem State.setVram_dev (s : State) (v : Memory) : (s.setVram v).dev = s.dev := rfl
@[simp] theorem State.setVram_vreg (s : State) (v : Memory) : (s.setVram v).vreg = s.vreg := rfl
@[simp] theorem State.setVram_cram (s : State) (v : Memory) : (s.setVram v).cram = s.cram := rfl
@[simp] theorem State.setVram_pcache (s : State) (v : Memory) : (s.setVram v).pcache = s.pcache := rfl
@[simp] theorem State.setVram_vram (s : State) (v : Memory) : (s.setVram v).vram = v := rfl
@[simp] theorem State.setVram_cgram (s : State) (v : Memory) : (s.setVram v).cgram = s.cgram := rfl
@[simp] theorem State.setVram_scache (s : State) (v : Memory) : (s.setVram v).scache = s.scache := rfl
@[simp] theorem State.setVram_pc (s : State) (v : Memory) : (s.setVram v).pc = s.pc := rfl
@[simp] theorem State.setVram_phase (s : State) (v : Memory) : (s.setVram v).phase = s.phase := rfl
@[simp] theorem State.setVram_callers (s : State) (v : Memory) : (s.setVram v).callers = s.callers := rfl
@[simp] theorem State.setVram_lastResult (s : State) (v : Memory) : (s.setVram v).lastResult = s.lastResult := rfl
@[simp] theorem State.setVram_buf (s : State) (v : Memory) : (s.setVram v).buf = s.buf := rfl
@[simp] theorem State.setVram_hostCalls (s : State) (v : Memory) : (s.setVram v).hostCalls = s.hostCalls := rfl
@[simp] theorem State.setVram_params (s : State) (v : Memory) : (s.setVram v).params = s.params := rfl
@[simp] theorem State.setVram_free (s : State) (v : Memory) : (s.setVram v).free = s.free := rfl

@[simp] theorem State.setCgram_mem (s : State) (v : Memory) : (s.setCgram v).mem = s.mem := rfl
@[simp] theorem State.setCgram_wst (s : State) (v : Memory) : (s.setCgram v).wst = s.wst := rfl
@[simp] theorem State.setCgram_rst (s : State) (v : Memory) : (s.setCgram v).rst = s.rst := rfl
@[simp] theorem State.setCgram_dev (s : State) (v : Memory) : (s.setCgram v).dev = s.dev := rfl
@[simp] theorem State.setCgram_vreg (s : State) (v : Memory) : (s.setCgram v).vreg = s.vreg := rfl
@[simp] theorem State.setCgram_cram (s : State) (v : Memory) : (s.setCgram v).cram = s.cram := rfl
@[simp] theorem State.setCgram_pcache (s : State) (v : Memory) : (s.setCgram v).pcache = s.pcache := rfl
@[simp] theorem State.setCgram_vram (s : State) (v : Memory) : (s.setCgram v).vram = s.vram := rfl
@[simp] theorem State.setCgram_cgram (s : State) (v : Memory) : (s.setCgram v).cgram = v := rfl
@[simp] theorem State.setCgram_scache (s : State) (v : Memory) : (s.setCgram v).scache = s.scache := rfl
@[simp] theorem State.setCgram_pc (s : State) (v : Memory) : (s.setCgram v).pc = s.pc := rfl
@[simp] theorem State.setCgram_phase (s : State) (v : Memory) : (s.setCgram v).phase = s.phase := rfl
@[simp] theorem State.setCgram_callers (s : State) (v : Memory) : (s.setCgram v).callers = s.callers := rfl
@[simp] theorem State.setCgram_lastResult (s : State) (v : Memory) : (s.setCgram v).lastResult = s.lastResult := rfl
@[simp] theorem State.setCgram_buf (s : State) (v : Memory) : (s.setCgram v).buf = s.buf := rfl
@[simp] theorem State.setCgram_hostCalls (s : State) (v : Memory) : (s.setCgram v).hostCalls = s.hostCalls := rfl
@[simp] theorem State.setCgram_params (s : State) (v : Memory) : (s.setCgram v).params = s.params := rfl
@[simp] theorem State.setCgram_free (s : State) (v : Memory) : (s.setCgram v).free = s.free := rfl

@[simp] theorem State.setScache_mem (s : State) (v : Regs 33 SpriteSlot) : (s.setScache v).mem = s.mem := rfl
@[simp] theorem State.setScache_wst (s : State) (v : Regs 33 SpriteSlot) : (s.setScache v).wst = s.wst := rfl
@[simp] theorem State.setScache_rst (s : State) (v : Regs 33 SpriteSlot) : (s.setScache v).rst = s.rst := rfl
@[simp] theorem State.setScache_dev (s : State) (v : Regs 33 SpriteSlot) : (s.setScache v).dev = s.dev := rfl
@[simp] theorem State.setScache_vreg (s : State) (v : Regs 33 SpriteSlot) : (s.setScache v).vreg = s.vreg := rfl
@[simp] theorem State.setScache_cram (s : State) (v : Regs 33 SpriteSlot) : (s.setScache v).cram = s.cram := rfl
@[simp] theorem State.setScache_pcache (s : State) (v : Regs 33 SpriteSlot) : (s.setScache v).pcache = s.pcache := rfl
@[simp] theorem State.setScache_vram (s : State) (v : Regs 33 SpriteSlot) : (s.setScache v).vram = s.vram := rfl
@[simp] theorem State.setScache_cgram (s : State) (v : Regs 33 SpriteSlot) : (s.setScache v).cgram = s.cgram := rfl
@[simp] theorem State.setScache_scache (s : State) (v : Regs 33 SpriteSlot) : (s.setScache v).scache = v := rfl
@[simp] theorem State.setScache_pc (s : State) (v : Regs 33 SpriteSlot) : (s.setScache v).pc = s.pc := rfl
@[simp] theorem State.setScache_phase (s : State) (v : Regs 33 SpriteSlot) : (s.setScache v).phase = s.phase := rfl
@[simp] theorem State.setScache_callers (s : State) (v : Regs 33 SpriteSlot) : (s.setScache v).callers = s.callers := rfl
@[simp] theorem State.setScache_lastResult (s : State) (v : Regs 33 SpriteSlot) : (s.setScache v).lastResult = s.lastResult := rfl
@[simp] theorem State.setScache_buf (s : State) (v : Regs 33 SpriteSlot) : (s.setScache v).buf = s.buf := rfl
@[simp] theorem State.setScache_hostCalls (s : State) (v : Regs 33 SpriteSlot) : (s.setScache v).hostCalls = s.hostCalls := rfl
@[simp] theorem State.setScache_params (s : State) (v : Regs 33 SpriteSlot) : (s.setScache v).params = s.params := rfl
@[simp] theorem State.setScache_free (s : State) (v : Regs 33 SpriteSlot) : (s.setScache v).free = s.free := rfl

@[simp] theorem State.setPc_mem (s : State) (v : Short) : (s.setPc v).mem = s.mem := rfl
@[simp] theorem State.setPc_wst (s : State) (v : Short) : (s.setPc v).wst = s.wst := rfl
@[simp] theorem State.setPc_rst (s : State) (v : Short) : (s.setPc v).rst = s.rst := rfl
@[simp] theorem State.setPc_dev (s : State) (v : Short) : (s.setPc v).dev = s.dev := rfl
@[simp] theorem State.setPc_vreg (s : State) (v : Short) : (s.setPc v).vreg = s.vreg := rfl
@[simp] theorem State.setPc_cram (s : State) (v : Short) : (s.setPc v).cram = s.cram := rfl
@[simp] theorem State.setPc_pcache (s : State) (v : Short) : (s.setPc v).pcache = s.pcache := rfl
@[simp] theorem State.setPc_vram (s : State) (v : Short) : (s.setPc v).vram = s.vram := rfl
@[simp] theorem State.setPc_cgram (s : State) (v : Short) : (s.setPc v).cgram = s.cgram := rfl
@[simp] theorem State.setPc_scache (s : State) (v : Short) : (s.setPc v).scache = s.scache := rfl
@[simp] theorem State.setPc_pc (s : State) (v : Short) : (s.setPc v).pc = v := rfl
@[simp] theorem State.setPc_phase (s : State) (v : Short) : (s.setPc v).phase = s.phase := rfl
@[simp] theorem State.setPc_callers (s : State) (v : Short) : (s.setPc v).callers = s.callers := rfl
@[simp] theorem State.setPc_lastResult (s : State) (v : Short) : (s.setPc v).lastResult = s.lastResult := rfl
@[simp] theorem State.setPc_buf (s : State) (v : Short) : (s.setPc v).buf = s.buf := rfl
@[simp] theorem State.setPc_hostCalls (s : State) (v : Short) : (s.setPc v).hostCalls = s.hostCalls := rfl
@[simp] theorem State.setPc_params (s : State) (v : Short) : (s.setPc v).params = s.params := rfl
@[simp] theorem State.setPc_free (s : State) (v : Short) : (s.setPc v).free = s.free := rfl

@[simp] theorem State.setPhase_mem (s : State) (v : Phase) : (s.setPhase v).mem = s.mem := rfl
@[simp] theorem State.setPhase_wst (s : State) (v : Phase) : (s.setPhase v).wst = s.wst := rfl
@[simp] theorem State.setPhase_rst (s : State) (v : Phase) : (s.setPhase v).rst = s.rst := rfl
@[simp] theorem State.setPhase_dev (s : State) (v : Phase) : (s.setPhase v).dev = s.dev := rfl
@[simp] theorem State.setPhase_vreg (s : State) (v : Phase) : (s.setPhase v).vreg = s.vreg := rfl
@[simp] theorem State.setPhase_cram (s : State) (v : Phase) : (s.setPhase v).cram = s.cram := rfl
@[simp] theorem State.setPhase_pcache (s : State) (v : Phase) : (s.setPhase v).pcache = s.pcache := rfl
@[simp] theorem State.setPhase_vram (s : State) (v : Phase) : (s.setPhase v).vram = s.vram := rfl
@[simp] theorem State.setPhase_cgram (s : State) (v : Phase) : (s.setPhase v).cgram = s.cgram := rfl
@[simp] theorem State.setPhase_scache (s : State) (v : Phase) : (s.setPhase v).scache = s.scache := rfl
@[simp] theorem State.setPhase_pc (s : State) (v : Phase) : (s.setPhase v).pc = s.pc := rfl
@[simp] theorem State.setPhase_phase (s : State) (v : Phase) : (s.setPhase v).phase = v := rfl
@[simp] theorem State.setPhase_callers (s : State) (v : Phase) : (s.setPhase v).callers = s.callers := rfl
@[simp] theorem State.setPhase_lastResult (s : State) (v : Phase) : (s.setPhase v).lastResult = s.lastResult := rfl
@[simp] theorem State.setPhase_buf (s : State) (v : Phase) : (s.setPhase v).buf = s.buf := rfl
@[simp] theorem State.setPhase_hostCalls (s : State) (v : Phase) : (s.setPhase v).hostCalls = s.hostCalls := rfl
@[simp] theorem State.setPhase_params (s : State) (v : Phase) : (s.setPhase v).params = s.params := rfl
@[simp] theorem State.setPhase_free (s : State) (v : Phase) : (s.setPhase v).free = s.free := rfl

@[simp] theorem State.setCallers_mem (s : State) (v : List Caller) : (s.setCallers v).mem = s.mem := rfl
@[simp] theorem State.setCallers_wst (s : State) (v : List Caller) : (s.setCallers v).wst = s.wst := rfl
@[simp] theorem State.setCallers_rst (s : State) (v : List Caller) : (s.setCallers v).rst = s.rst := rfl
@[simp] theorem State.setCallers_dev (s : State) (v : List Caller) : (s.setCallers v).dev = s.dev := rfl
@[simp] theorem State.setCallers_vreg (s : State) (v : List Caller) : (s.setCallers v).vreg = s.vreg := rfl
@[simp] theorem State.setCallers_cram (s : State) (v : List Caller) : (s.setCallers v).cram = s.cram := rfl
@[simp] theorem State.setCallers_pcache (s : State) (v : List Caller) : (s.setCallers v).pcache = s.pcache := rfl
@[simp] theorem State.setCallers_vram (s : State) (v : List Caller) : (s.setCallers v).vram = s.vram := rfl
@[simp] theorem State.setCallers_cgram (s : State) (v : List Caller) : (s.setCallers v).cgram = s.cgram := rfl
@[simp] theorem State.setCallers_scache (s : State) (v : List Caller) : (s.setCallers v).scache = s.scache := rfl
@[simp] theorem State.setCallers_pc (s : State) (v : List Caller) : (s.setCallers v).pc = s.pc := rfl
@[simp] theorem State.setCallers_phase (s : State) (v : List Caller) : (s.setCallers v).phase = s.phase := rfl
@[simp] theorem State.setCallers_callers (s : State) (v : List Caller) : (s.setCallers v).callers = v := rfl
@[simp] theorem State.setCallers_lastResult (s : State) (v : List Caller) : (s.setCallers v).lastResult = s.lastResult := rfl
@[simp] theorem State.setCallers_buf (s : State) (v : List Caller) : (s.setCallers v).buf = s.buf := rfl
@[simp] theorem State.setCallers_hostCalls (s : State) (v : List Caller) : (s.setCallers v).hostCalls = s.hostCalls := rfl
@[simp] theorem State.setCallers_params (s : State) (v : List Caller) : (s.setCallers v).params = s.params := rfl
@[simp] theorem State.setCallers_free (s : State) (v : List Caller) : (s.setCallers v).free = s.free := rfl

@[simp] theorem State.setLastResult_mem (s : State) (v : Option RunResult) : (s.setLastResult v).mem = s.mem := rfl
@[simp] theorem State.setLastResult_wst (s : State) (v : Option RunResult) : (s.setLastResult v).wst = s.wst := rfl
@[simp] theorem State.setLastResult_rst (s : State) (v : Option RunResult) : (s.setLastResult v).rst = s.rst := rfl
@[simp] theorem State.setLastResult_dev (s : State) (v : Option RunResult) : (s.setLastResult v).dev = s.dev := rfl
@[simp] theorem State.setLastResult_vreg (s : State) (v : Option RunResult) : (s.setLastResult v).vreg = s.vreg := rfl
@[simp] theorem State.setLastResult_cram (s : State) (v : Option RunResult) : (s.setLastResult v).cram = s.cram := rfl
@[simp] theorem State.setLastResult_pcache (s : State) (v : Option RunResult) : (s.setLastResult v).pcache = s.pcache := rfl
@[simp] theorem State.setLastResult_vram (s : State) (v : Option RunResult) : (s.setLastResult v).vram = s.vram := rfl
@[simp] theorem State.setLastResult_cgram (s : State) (v : Option RunResult) : (s.setLastResult v).cgram = s.cgram := rfl
@[simp] theorem State.setLastResult_scache (s : State) (v : Option RunResult) : (s.setLastResult v).scache = s.scache := rfl
@[simp] theorem State.setLastResult_pc (s : State) (v : Option RunResult) : (s.setLastResult v).pc = s.pc := rfl
@[simp] theorem State.setLastResult_phase (s : State) (v : Option RunResult) : (s.setLastResult v).phase = s.phase := rfl
@[simp] theorem State.setLastResult_callers (s : State) (v : Option RunResult) : (s.setLastResult v).callers = s.callers := rfl
@[simp] theorem State.setLastResult_lastResult (s : State) (v : Option RunResult) : (s.setLastResult v).lastResult = v := rfl
@[simp] theorem State.setLastResult_buf (s : State) (v : Option RunResult) : (s.setLastResult v).buf = s.buf := rfl
@[simp] theorem State.setLastResult_hostCalls (s : State) (v : Option RunResult) : (s.setLastResult v).hostCalls = s.hostCalls := rfl
@[simp] theorem State.setLastResult_params (s : State) (v : Option RunResult) : (s.setLastResult v).params = s.params := rfl
@[simp] theorem State.setLastResult_free (s : State) (v : Option RunResult) : (s.setLastResult v).free = s.free := rfl

@[simp] theorem State.setBuf_mem (s : State) (v : FrameBuffer) : (s.setBuf v).mem = s.mem := rfl
@[simp] theorem State.setBuf_wst (s : State) (v : FrameBuffer) : (s.setBuf v).wst = s.wst := rfl
@[simp] theorem State.setBuf_rst (s : State) (v : FrameBuffer) : (s.setBuf v).rst = s.rst := rfl
@[simp] theorem State.setBuf_dev (s : State) (v : FrameBuffer) : (s.setBuf v).dev = s.dev := rfl
@[simp] theorem State.setBuf_vreg (s : State) (v : FrameBuffer) : (s.setBuf v).vreg = s.vreg := rfl
@[simp] theorem State.setBuf_cram (s : State) (v : FrameBuffer) : (s.setBuf v).cram = s.cram := rfl
@[simp] theorem State.setBuf_pcache (s : State) (v : FrameBuffer) : (s.setBuf v).pcache = s.pcache := rfl
@[simp] theorem State.setBuf_vram (s : State) (v : FrameBuffer) : (s.setBuf v).vram = s.vram := rfl
@[simp] theorem State.setBuf_cgram (s : State) (v : FrameBuffer) : (s.setBuf v).cgram = s.cgram := rfl
@[simp] theorem State.setBuf_scache (s : State) (v : FrameBuffer) : (s.setBuf v).scache = s.scache := rfl
@[simp] theorem State.setBuf_pc (s : State) (v : FrameBuffer) : (s.setBuf v).pc = s.pc := rfl
@[simp] theorem State.setBuf_phase (s : State) (v : FrameBuffer) : (s.setBuf v).phase = s.phase := rfl
@[simp] theorem State.setBuf_callers (s : State) (v : FrameBuffer) : (s.setBuf v).callers = s.callers := rfl
@[simp] theorem State.setBuf_lastResult (s : State) (v : FrameBuffer) : (s.setBuf v).lastResult = s.lastResult := rfl
@[simp] theorem State.setBuf_buf (s : State) (v : FrameBuffer) : (s.setBuf v).buf = v := rfl
@[simp] theorem State.setBuf_hostCalls (s : State) (v : FrameBuffer) : (s.setBuf v).hostCalls = s.hostCalls := rfl
@[simp] theorem State.setBuf_params (s : State) (v : FrameBuffer) : (s.setBuf v).params = s.params := rfl
@[simp] theorem State.setBuf_free (s : State) (v : FrameBuffer) : (s.setBuf v).free = s.free := rfl

@[simp] theorem State.setHostCalls_mem (s : State) (v : List HostCall) : (s.setHostCalls v).mem = s.mem := rfl
@[simp] theorem State.setHostCalls_wst (s : State) (v : List HostCall) : (s.setHostCalls v).wst = s.wst := rfl
@[simp] theorem State.setHostCalls_rst (s : State) (v : List HostCall) : (s.setHostCalls v).rst = s.rst := rfl
@[simp] theorem State.setHostCalls_dev (s : State) (v : List HostCall) : (s.setHostCalls v).dev = s.dev := rfl
@[simp] theorem State.setHostCalls_vreg (s : State) (v : List HostCall) : (s.setHostCalls v).vreg = s.vreg := rfl
@[simp] theorem State.setHostCalls_cram (s : State) (v : List HostCall) : (s.setHostCalls v).cram = s.cram := rfl
@[simp] theorem State.setHostCalls_pcache (s : State) (v : List HostCall) : (s.setHostCalls v).pcache = s.pcache := rfl
@[simp] theorem State.setHostCalls_vram (s : State) (v : List HostCall) : (s.setHostCalls v).vram = s.vram := rfl
@[simp] theorem State.setHostCalls_cgram (s : State) (v : List HostCall) : (s.setHostCalls v).cgram = s.cgram := rfl
@[simp] theorem State.setHostCalls_scache (s : State) (v : List HostCall) : (s.setHostCalls v).scache = s.scache := rfl
@[simp] theorem State.setHostCalls_pc (s : State) (v : List HostCall) : (s.setHostCalls v).pc = s.pc := rfl
@[simp] theorem State.setHostCalls_phase (s : State) (v : List HostCall) : (s.setHostCalls v).phase = s.phase := rfl
@[simp] theorem State.setHostCalls_callers (s : State) (v : List HostCall) : (s.setHostCalls v).callers = s.callers := rfl
@[simp] theorem State.setHostCalls_lastResult (s : State) (v : List HostCall) : (s.setHostCalls v).lastResult = s.lastResult := rfl
@[simp] theorem State.setHostCalls_buf (s : State) (v : List HostCall) : (s.setHostCalls v).buf = s.buf := rfl
@[simp] theorem State.setHostCalls_hostCalls (s : State) (v : List HostCall) : (s.setHostCalls v).hostCalls = v := rfl
@[simp] theorem State.setHostCalls_params (s : State) (v : List HostCall) : (s.setHostCalls v).params = s.params := rfl
@[simp] theorem State.setHostCalls_free (s : State) (v : List HostCall) : (s.setHostCalls v).free = s.free := rfl

@[simp] theorem State.setFree_mem (s : State) (v : Nat) : (s.setFree v).mem = s.mem := rfl
@[simp] theorem State.setFree_wst (s : State) (v : Nat) : (s.setFree v).wst = s.wst := rfl
@[simp] theorem State.setFree_rst (s : State) (v : Nat) : (s.setFree v).rst = s.rst := rfl
@[simp] theorem State.setFree_dev (s : State) (v : Nat) : (s.setFree v).dev = s.dev := rfl
@[simp] theorem State.setFree_vreg (s : State) (v : Nat) : (s.setFree v).vreg = s.vreg := rfl
@[simp] theorem State.setFree_cram (s : State) (v : Nat) : (s.setFree v).cram = s.cram := rfl
@[simp] theorem State.setFree_pcache (s : State) (v : Nat) : (s.setFree v).pcache = s.pcache := rfl
@[simp] theorem State.setFree_vram (s : State) (v : Nat) : (s.setFree v).vram = s.vram := rfl
@[simp] theorem State.setFree_cgram (s : State) (v : Nat) : (s.setFree v).cgram = s.cgram := rfl
@[simp] theorem State.setFree_scache (s : State) (v : Nat) : (s.setFree v).scache = s.scache := rfl
@[simp] theorem State.setFree_pc (s : State) (v : Nat) : (s.setFree v).pc = s.pc := rfl
@[simp] theorem State.setFree_phase (s : State) (v : Nat) : (s.setFree v).phase = s.phase := rfl
@[simp] theorem State.setFree_callers (s : State) (v : Nat) : (s.setFree v).callers = s.callers := rfl
@[simp] theorem State.setFree_lastResult (s : State) (v : Nat) : (s.setFree v).lastResult = s.lastResult := rfl
@[simp] theorem State.setFree_buf (s : State) (v : Nat) : (s.setFree v).buf = s.buf := rfl
@[simp] theorem State.setFree_hostCalls (s : State) (v : Nat) : (s.setFree v).hostCalls = s.hostCalls := rfl
@[simp] theorem State.setFree_params (s : State) (v : Nat) : (s.setFree v).params = s.params := rfl
@[simp] theorem State.setFree_free (s : State) (v : Nat) : (s.setFree v).free = v := rfl

end Sys2Proof.Machine
end

