-- ==== Sys2Proof/Laws/Stack.lean ====
section
/-! SUPPORT. What push, pop and the keep restore do, in the terms of Safety.lean, and the selected stack of
a state. -/

namespace Sys2Proof.Machine

/-! ### The selected stack -/

@[simp] theorem State.stack_setStack_same (s : State) (r : Bool) (x : Stack) : (s.setStack r x).stack r = x := by
  cases r <;> rfl

@[simp] theorem State.stack_setStack_other (s : State) (r : Bool) (x : Stack) :
    (s.setStack r x).stack (!r) = s.stack (!r) := by
  cases r <;> rfl

@[simp] theorem State.stack_setStack_other' (s : State) (r : Bool) (x : Stack) :
    (s.setStack (!r) x).stack r = s.stack r := by
  cases r <;> rfl

@[simp] theorem State.stack_setPc (s : State) (r : Bool) (v : Short) : (s.setPc v).stack r = s.stack r := by
  cases r <;> rfl

@[simp] theorem State.stack_setMem (s : State) (r : Bool) (v : Memory) : (s.setMem v).stack r = s.stack r := by
  cases r <;> rfl

@[simp] theorem State.stack_setDev (s : State) (r : Bool) (v : Bank 8 Byte) : (s.setDev v).stack r = s.stack r := by
  cases r <;> rfl

@[simp] theorem State.stack_setVreg (s : State) (r : Bool) (v : Bank 4 Short) : (s.setVreg v).stack r = s.stack r := by
  cases r <;> rfl

@[simp] theorem State.stack_setPhase (s : State) (r : Bool) (v : Phase) : (s.setPhase v).stack r = s.stack r := by
  cases r <;> rfl

@[simp] theorem State.stack_advance (s : State) (r : Bool) (n : Short) : (s.advance n).stack r = s.stack r := by
  cases r <;> rfl

@[simp] theorem State.advance_pc (s : State) (n : Short) : (s.advance n).pc = s.pc + n := rfl

@[simp] theorem State.advance_mem (s : State) (n : Short) : (s.advance n).mem = s.mem := rfl

@[simp] theorem State.advance_wst (s : State) (n : Short) : (s.advance n).wst = s.wst := rfl

@[simp] theorem State.advance_rst (s : State) (n : Short) : (s.advance n).rst = s.rst := rfl

@[simp] theorem State.advance_dev (s : State) (n : Short) : (s.advance n).dev = s.dev := rfl

@[simp] theorem State.advance_vreg (s : State) (n : Short) : (s.advance n).vreg = s.vreg := rfl

@[simp] theorem State.advance_cram (s : State) (n : Short) : (s.advance n).cram = s.cram := rfl

@[simp] theorem State.advance_pcache (s : State) (n : Short) : (s.advance n).pcache = s.pcache := rfl

@[simp] theorem State.advance_vram (s : State) (n : Short) : (s.advance n).vram = s.vram := rfl

@[simp] theorem State.advance_cgram (s : State) (n : Short) : (s.advance n).cgram = s.cgram := rfl

@[simp] theorem State.advance_scache (s : State) (n : Short) : (s.advance n).scache = s.scache := rfl

@[simp] theorem State.advance_phase (s : State) (n : Short) : (s.advance n).phase = s.phase := rfl

@[simp] theorem State.advance_callers (s : State) (n : Short) : (s.advance n).callers = s.callers := rfl

@[simp] theorem State.advance_lastResult (s : State) (n : Short) : (s.advance n).lastResult = s.lastResult := rfl

@[simp] theorem State.advance_buf (s : State) (n : Short) : (s.advance n).buf = s.buf := rfl

@[simp] theorem State.advance_hostCalls (s : State) (n : Short) : (s.advance n).hostCalls = s.hostCalls := rfl

@[simp] theorem State.advance_params (s : State) (n : Short) : (s.advance n).params = s.params := rfl

@[simp] theorem State.advance_free (s : State) (n : Short) : (s.advance n).free = s.free := rfl

@[simp] theorem State.setStack_mem (s : State) (r : Bool) (x : Stack) : (s.setStack r x).mem = s.mem := by
  cases r <;> rfl

@[simp] theorem State.setStack_dev (s : State) (r : Bool) (x : Stack) : (s.setStack r x).dev = s.dev := by
  cases r <;> rfl

@[simp] theorem State.setStack_vreg (s : State) (r : Bool) (x : Stack) : (s.setStack r x).vreg = s.vreg := by
  cases r <;> rfl

@[simp] theorem State.setStack_pc (s : State) (r : Bool) (x : Stack) : (s.setStack r x).pc = s.pc := by
  cases r <;> rfl

@[simp] theorem State.setStack_phase (s : State) (r : Bool) (x : Stack) : (s.setStack r x).phase = s.phase := by
  cases r <;> rfl

@[simp] theorem State.setStack_callers (s : State) (r : Bool) (x : Stack) : (s.setStack r x).callers = s.callers := by
  cases r <;> rfl

@[simp] theorem State.setStack_params (s : State) (r : Bool) (x : Stack) : (s.setStack r x).params = s.params := by
  cases r <;> rfl

/-! ### What an update of the CPU leaves alone -/

theorem OutsideSame.refl (s : State) : OutsideSame s s := by constructor <;> rfl

theorem OutsideSame.trans {s t u : State} (h : OutsideSame s t) (k : OutsideSame t u) : OutsideSame s u where
  vreg := k.vreg.trans h.vreg
  cram := k.cram.trans h.cram
  pcache := k.pcache.trans h.pcache
  vram := k.vram.trans h.vram
  cgram := k.cgram.trans h.cgram
  scache := k.scache.trans h.scache
  phase := k.phase.trans h.phase
  callers := k.callers.trans h.callers
  lastResult := k.lastResult.trans h.lastResult
  buf := k.buf.trans h.buf
  hostCalls := k.hostCalls.trans h.hostCalls
  params := k.params.trans h.params
  free := k.free.trans h.free

theorem OutsideSame.setStack {s t : State} (h : OutsideSame s t) (r : Bool) (x : Stack) :
    OutsideSame s (t.setStack r x) :=
  h.trans (by cases r <;> constructor <;> rfl)

theorem OutsideSame.setPc {s t : State} (h : OutsideSame s t) (v : Short) : OutsideSame s (t.setPc v) :=
  h.trans (by constructor <;> rfl)

theorem OutsideSame.setMem {s t : State} (h : OutsideSame s t) (v : Memory) : OutsideSame s (t.setMem v) :=
  h.trans (by constructor <;> rfl)

theorem OutsideSame.setDev {s t : State} (h : OutsideSame s t) (v : Bank 8 Byte) : OutsideSame s (t.setDev v) :=
  h.trans (by constructor <;> rfl)

/-! ### Pops -/

/-- A stack with `n` bytes removed: the bytes stay in their slots (R405). -/
def Stack.dropped (x : Stack) (n : Nat) : Stack := ⟨x.dat, x.ptr - BitVec.ofNat 8 n⟩

theorem Stack.dropped_zero (x : Stack) : x.dropped 0 = x := by
  simp [Stack.dropped]

theorem Stack.dropped_dropped (x : Stack) (m n : Nat) : (x.dropped m).dropped n = x.dropped (m + n) := by
  simp [Stack.dropped, BitVec.ofNat_add]; ring

theorem Stack.under_dropped (x : Stack) (m n : Nat) : (x.dropped m).under n = x.under (m + n) := by
  simp only [Stack.under, Stack.dropped, BitVec.ofNat_add]
  congr 1; ring

theorem Stack.word_dropped (x : Stack) (m : Nat) (short : Bool) (n : Nat) :
    (x.dropped m).word short n = x.word short (m + n) := by
  simp [Stack.word, Stack.under_dropped, Nat.add_assoc]

theorem Stack.word_lt (x : Stack) (short : Bool) (n : Nat) : x.word short n < modulus short := by
  have h1 := (x.under (n + 1)).isLt
  have h2 := (x.under n).isLt
  cases short <;> simp [Stack.word, modulus] <;> omega

/-- A pop answers the word on top and removes its bytes (R405). -/
theorem Stack.pop_eq (x : Stack) (short : Bool) :
    x.pop short = (BitVec.ofNat 16 (x.word short 0), x.dropped (width short)) := by
  cases short
  · have h : (x.under 0).setWidth 16 = BitVec.ofNat 16 (x.under 0).toNat := by
      apply BitVec.eq_of_toNat_eq; simp
    simp only [Stack.pop, Stack.pop1, Stack.word, width, Stack.dropped, Bool.false_eq_true, if_false]
    rw [show x.dat.rd (x.ptr - 1) = x.under 0 by simp [Stack.under], h]
    rfl
  · have h : ∀ a b : Byte, a ++ b = BitVec.ofNat 16 (a.toNat * 256 + b.toNat) := by
      intro a b
      apply BitVec.eq_of_toNat_eq
      have := a.isLt; have := b.isLt
      rw [BitVec.toNat_append, BitVec.toNat_ofNat, Nat.mod_eq_of_lt (by omega),
        Nat.shiftLeft_eq, ← Nat.shiftLeft_eq, ← Nat.shiftLeft_add_eq_or_of_lt (by omega), Nat.shiftLeft_eq]
    simp only [Stack.pop, Stack.pop1, Stack.word, width, Stack.dropped, if_true]
    rw [show x.dat.rd (x.ptr - 1) = x.under 0 by simp [Stack.under],
      show x.dat.rd (x.ptr - 1 - 1) = x.under (0 + 1) by simp [Stack.under], h]
    simp only [Prod.mk.injEq, Stack.mk.injEq, true_and]
    bv_omega

/-- The keep restore puts the popped bytes back (R407). -/
theorem Stack.keepRestore_dropped (x : Stack) (keep : Bool) (n : Nat) :
    Stack.keepRestore keep x (x.dropped n) = x.dropped (if keep then 0 else n) := by
  cases keep <;> simp [Stack.keepRestore, Stack.dropped]

/-! ### Pushes -/

theorem StackEffect.refl (x : Stack) : StackEffect x x 0 [] := by
  simp [StackEffect]

theorem StackEffect.drop (x : Stack) (n : Nat) : StackEffect x (x.dropped n) n [] := by
  simp [StackEffect, Stack.dropped]

/-- One more byte pushed (R404). -/
theorem StackEffect.push1 {x y : Stack} {n : Nat} {bs : List Byte} (h : StackEffect x y n bs)
    (hl : bs.length < 256) (v : Byte) : StackEffect x (y.push1 v) n (bs ++ [v]) := by
  obtain ⟨hp, hd⟩ := h
  refine ⟨?_, ?_⟩
  · simp [Stack.push1, hp, BitVec.ofNat_add, BitVec.add_assoc]
  · intro j
    have key : y.ptr = j ↔ (j - (x.ptr - BitVec.ofNat 8 n)).toNat = bs.length := by
      rw [hp]
      generalize x.ptr - BitVec.ofNat 8 n = b
      constructor
      · intro e
        rw [← e]
        bv_omega
      · intro e
        bv_omega
    simp only [Stack.push1, Bank.rd_wr, hd]
    by_cases hj : y.ptr = j
    · rw [if_pos hj, key.1 hj]; simp
    · rw [if_neg hj]
      have hne : (j - (x.ptr - BitVec.ofNat 8 n)).toNat ≠ bs.length := fun e => hj (key.2 e)
      rcases Nat.lt_or_gt_of_ne hne with hlt | hgt
      · rw [List.getElem?_append_left hlt]
      · rw [List.getElem?_append_right (by omega), List.getElem?_eq_none (by omega)]
        rw [List.getElem?_eq_none (by rw [List.length_singleton]; omega)]

theorem wordBytes_toNat (short : Bool) (v : Short) :
    wordBytes short v.toNat = if short then [hiByte v, loByte v] else [loByte v] := by
  have hlo : BitVec.ofNat 8 v.toNat = loByte v := by
    apply BitVec.eq_of_toNat_eq; simp [loByte]
  have hhi : BitVec.ofNat 8 (v.toNat / 256) = hiByte v := by
    apply BitVec.eq_of_toNat_eq; simp [hiByte, Nat.shiftRight_eq_div_pow]
  simp [wordBytes, hlo, hhi]

theorem wordBytes_length (short : Bool) (v : Nat) : (wordBytes short v).length = width short := by
  cases short <;> rfl

/-- One more value pushed (R404). -/
theorem StackEffect.push {x y : Stack} {n : Nat} {bs : List Byte} (h : StackEffect x y n bs)
    (hl : bs.length < 255) (short : Bool) (v : Short) :
    StackEffect x (y.push short v) n (bs ++ wordBytes short v.toNat) := by
  rw [wordBytes_toNat]
  cases short
  · exact h.push1 (by omega) _
  · have h1 := h.push1 (by omega) (hiByte v)
    have h2 := h1.push1 (by simp; omega) (loByte v)
    simpa [Stack.push] using h2

/-- All results pushed, deepest first (R406). -/
theorem StackEffect.pushAll {x : Stack} {n : Nat} (short : Bool) (vs : List Short) :
    ∀ {y : Stack} {bs : List Byte}, StackEffect x y n bs → bs.length + 2 * vs.length < 256 →
      StackEffect x (y.pushAll short vs) n (bs ++ vs.flatMap (fun v => wordBytes short v.toNat)) := by
  induction vs with
  | nil => intro y bs h _; simpa [Stack.pushAll] using h
  | cons v vs ih =>
    intro y bs h hl
    have hw : (wordBytes short v.toNat).length ≤ 2 := by rw [wordBytes_length]; cases short <;> simp [width]
    simp only [List.length_cons] at hl
    have := ih (h.push (by omega) short v) (by rw [List.length_append]; omega)
    simpa [Stack.pushAll, List.append_assoc] using this

end Sys2Proof.Machine
end

