-- ==== Sys2Proof/Laws/Invocation.lean ====
section
/-! SUPPORT. Entering and leaving an invocation: what each changes, said once. -/

namespace Sys2Proof.Machine

/-- Entry changes the callers, the program counter and what executes, and nothing else (R904). -/
theorem State.enter_eq (s : State) (c : List Caller) (a : Short) :
    s.enter c a = { s with callers := c ++ s.callers, pc := a, phase := .run } := rfl

theorem State.leave_host (s : State) (r : RunResult) (h : s.callers = []) :
    s.leave r = { s with lastResult := some r, phase := .idle } := by
  have e : s.leave r = (s.setLastResult (some r)).setPhase .idle := by unfold State.leave; rw [h]
  exact e

theorem State.leave_render (s : State) (r : RunResult) (pt : RenderPoint) (rest : List Caller)
    (h : s.callers = .render pt :: rest) :
    s.leave r = { s with lastResult := some r, callers := rest, phase := .render pt } := by
  unfold State.leave
  rw [h]
  rfl

theorem State.leave_handler (s : State) (r : RunResult) (k : HandlerCall) (pc : Short) (rest : List Caller)
    (h : s.callers = .handler k pc :: rest) :
    s.leave r = { s with lastResult := some r, callers := rest, pc := pc, phase := .handler k } := by
  unfold State.leave
  rw [h]
  rfl

/-- Leaving changes the result, the callers, the program counter and what executes, and nothing else
(R905). -/
theorem State.leave_eq (s : State) (r : RunResult) :
    s.leave r = { s with lastResult := some r, callers := (s.leave r).callers, pc := (s.leave r).pc,
                         phase := (s.leave r).phase } := by
  rcases h : s.callers with _ | ⟨⟨pt⟩ | ⟨k, pc⟩, rest⟩
  · simp [State.leave_host s r h, h]
  · simp [State.leave_render s r pt rest h]
  · simp [State.leave_handler s r k pc rest h]

/-- What RUN_OFF makes of a completed instruction (R410): it goes on or the invocation ends with result 1. -/
theorem State.runOffPoint_cases (s : State) :
    (s.params.runOff = .never ∧ s.runOffPoint = s) ∨
    (s.params.runOff = .alwaysAtWrap ∧ s.runOffPoint = s.leave .ranOff) ∨
    (s.params.runOff = .mayAtWrap ∧
      (s.runOffPoint = (s.setFree (s.free + 1)).leave .ranOff ∨ s.runOffPoint = s.setFree (s.free + 1))) := by
  unfold State.runOffPoint
  cases h : s.params.runOff
  · exact .inl ⟨rfl, rfl⟩
  · refine .inr (.inr ⟨rfl, ?_⟩)
    dsimp only
    split
    · exact .inl rfl
    · exact .inr rfl
  · exact .inr (.inl ⟨rfl, rfl⟩)

end Sys2Proof.Machine
end

