-- ==== Sys2Proof/Laws/Store.lean ====
section
/-! SUPPORT. Sparse memories: read after write, and every operation keeps the canonical form. -/

namespace Sys2Proof.Machine

variable {w : Nat}

/-! ### Reads -/

@[simp] theorem Store.read_nil (a : Nat) : Store.read ([] : Store w) a = 0 := rfl

theorem Store.read_cons (c : Nat × BitVec w) (m : Store w) (a : Nat) :
    Store.read (c :: m) a = if c.1 = a then c.2 else Store.read m a := rfl

theorem Store.read_absent (m : Store w) (a : Nat) (h : ∀ c ∈ m, c.1 ≠ a) : Store.read m a = 0 := by
  induction m with
  | nil => rfl
  | cons c m ih =>
    rw [Store.read_cons, if_neg (h c (by simp))]
    exact ih (fun d hd => h d (by simp [hd]))

theorem Store.read_append (m n : Store w) (a : Nat) (h : ∀ c ∈ m, c.1 ≠ a) :
    Store.read (m ++ n) a = Store.read n a := by
  induction m with
  | nil => rfl
  | cons c m ih =>
    rw [List.cons_append, Store.read_cons, if_neg (h c (by simp))]
    exact ih (fun d hd => h d (by simp [hd]))

theorem Store.read_append_of_absent (m n : Store w) (a : Nat) (h : ∀ c ∈ n, c.1 ≠ a) :
    Store.read (m ++ n) a = Store.read m a := by
  induction m with
  | nil => simpa using Store.read_absent n a h
  | cons c m ih => rw [List.cons_append, Store.read_cons, Store.read_cons, ih]

/-- A filter that keeps every cell of an address keeps what the address reads as. -/
theorem Store.read_filter (m : Store w) (p : Nat × BitVec w → Bool) (a : Nat)
    (h : ∀ v, p (a, v) = true) : Store.read (m.filter p) a = Store.read m a := by
  induction m with
  | nil => rfl
  | cons c m ih =>
    by_cases hc : c.1 = a
    · have : p c = true := by have := h c.2; rwa [← hc] at this
      rw [List.filter_cons_of_pos this, Store.read_cons, Store.read_cons, if_pos hc, if_pos hc]
    · by_cases hp : p c = true
      · rw [List.filter_cons_of_pos hp, Store.read_cons, Store.read_cons, if_neg hc, if_neg hc, ih]
      · rw [List.filter_cons_of_neg hp, Store.read_cons, if_neg hc, ih]

/-! ### Writes -/

theorem Store.read_place_same (m : Store w) (a : Nat) (v : BitVec w) (h : ∀ c ∈ m, c.1 ≠ a) :
    Store.read (Store.place m a v) a = v := by
  induction m with
  | nil => simp [Store.place, Store.read]
  | cons c m ih =>
    unfold Store.place
    split
    · simp [Store.read]
    · rw [Store.read_cons, if_neg (h c (by simp)), ih (fun d hd => h d (by simp [hd]))]

theorem Store.read_place_ne (m : Store w) (a b : Nat) (v : BitVec w) (h : a ≠ b) :
    Store.read (Store.place m a v) b = Store.read m b := by
  induction m with
  | nil => simp [Store.place, Store.read, h, Store.unlisted]
  | cons c m ih =>
    unfold Store.place
    split
    · rw [Store.read_cons, if_neg h]
    · rw [Store.read_cons, Store.read_cons, ih]

@[simp] theorem Store.read_write_same (m : Store w) (a : Nat) (v : BitVec w) : (m.write a v).read a = v := by
  have habs : ∀ c ∈ m.filter (fun c => c.1 != a), c.1 ≠ a := by
    intro c hc; simpa using (List.mem_filter.1 hc).2
  unfold Store.write
  split
  · next h => rw [h]; exact Store.read_absent _ a habs
  · exact Store.read_place_same _ a v habs

theorem Store.read_write_ne (m : Store w) (a b : Nat) (v : BitVec w) (h : a ≠ b) :
    (m.write a v).read b = m.read b := by
  have hf : Store.read (m.filter (fun c => c.1 != a)) b = m.read b :=
    Store.read_filter m _ b (fun _ => by simpa using fun e => h e.symm)
  unfold Store.write
  split
  · exact hf
  · rw [Store.read_place_ne _ a b v h, hf]

theorem Store.read_write (m : Store w) (a b : Nat) (v : BitVec w) :
    (m.write a v).read b = if a = b then v else m.read b := by
  by_cases h : a = b
  · subst h; simp
  · simp [h, Store.read_write_ne m a b v h]

/-- An address that no place of a fill hits reads as before. -/
theorem Store.read_fill_ne (m : Store w) (n : Nat) (place : Nat → Nat) (val : Nat → BitVec w) (a : Nat)
    (h : ∀ i, i < n → place i ≠ a) : (Store.fill m n place val).read a = m.read a := by
  induction n with
  | zero => rfl
  | succ n ih =>
    rw [Store.fill, Store.read_write_ne _ _ _ _ (h n (by omega)), ih (fun i hi => h i (by omega))]

/-- A place that a fill hits once reads as the value for it. -/
theorem Store.read_fill_at (m : Store w) (n : Nat) (place : Nat → Nat) (val : Nat → BitVec w) (i : Nat)
    (hi : i < n) (hinj : ∀ j, j < n → place j = place i → j = i) :
    (Store.fill m n place val).read (place i) = val i := by
  induction n with
  | zero => omega
  | succ n ih =>
    rw [Store.fill, Store.read_write]
    split
    · next h => rw [hinj n (by omega) h]
    · next h =>
      have hn : i ≠ n := fun e => h (by rw [e])
      exact ih (by omega) (fun j hj => hinj j (by omega))

theorem Store.mem_cells (base n : Nat) (val : Nat → BitVec w) (c : Nat × BitVec w) :
    c ∈ Store.cells base n val ↔ ∃ i, i < n ∧ val i ≠ 0 ∧ c = (base + i, val i) := by
  induction n with
  | zero => simp [Store.cells]
  | succ n ih =>
    have hsplit : (∃ i, i < n + 1 ∧ val i ≠ 0 ∧ c = (base + i, val i)) ↔
        (∃ i, i < n ∧ val i ≠ 0 ∧ c = (base + i, val i)) ∨ (val n ≠ 0 ∧ c = (base + n, val n)) := by
      constructor
      · rintro ⟨i, hi, h⟩
        rcases Nat.lt_succ_iff_lt_or_eq.1 hi with hlt | heq
        · exact .inl ⟨i, hlt, h⟩
        · subst heq; exact .inr h
      · rintro (⟨i, hi, h⟩ | h)
        · exact ⟨i, by omega, h⟩
        · exact ⟨n, by omega, h⟩
    rw [Store.cells, List.mem_append, ih, hsplit]
    by_cases h : val n = 0#w <;> simp [h, Store.unlisted]

theorem Store.read_cells (base n : Nat) (val : Nat → BitVec w) (i : Nat) (hi : i < n) :
    Store.read (Store.cells base n val) (base + i) = val i := by
  induction n with
  | zero => omega
  | succ n ih =>
    rw [Store.cells]
    by_cases h : i = n
    · subst h
      rw [Store.read_append]
      · by_cases hv : val i = 0#w <;> simp [hv, Store.read, Store.unlisted]
      · intro c hc
        obtain ⟨j, hj, -, rfl⟩ := (Store.mem_cells _ _ _ _).1 hc
        simp; omega
    · rw [Store.read_append_of_absent, ih (by omega)]
      intro c hc
      by_cases hv : val n = 0#w
      · simp [hv, Store.unlisted] at hc
      · simp [hv, Store.unlisted] at hc
        simp [hc]; omega

/-- What a splice does: the `n` cells from `base` take the new values, every other cell is as before. -/
theorem Store.read_splice (m : Store w) (base n : Nat) (val : Nat → BitVec w) (a : Nat) :
    (m.splice base n val).read a = if base ≤ a ∧ a < base + n then val (a - base) else m.read a := by
  unfold Store.splice
  by_cases h1 : a < base
  · rw [Store.read_append_of_absent, Store.read_filter, if_neg (by omega)]
    · intro v; simpa using h1
    · intro c hc
      rcases List.mem_append.1 hc with hc | hc
      · obtain ⟨i, -, -, rfl⟩ := (Store.mem_cells _ _ _ _).1 hc
        simp; omega
      · have := (List.mem_filter.1 hc).2
        simp at this; omega
  · rw [Store.read_append]
    · by_cases h2 : a < base + n
      · rw [if_pos ⟨by omega, h2⟩, Store.read_append_of_absent]
        · have := Store.read_cells base n val (a - base) (by omega)
          rwa [Nat.add_sub_cancel' (by omega)] at this
        · intro c hc
          have := (List.mem_filter.1 hc).2
          simp at this; omega
      · rw [if_neg (by omega), Store.read_append, Store.read_filter]
        · intro v; simpa using Nat.le_of_not_lt h2
        · intro c hc
          obtain ⟨i, hi, -, rfl⟩ := (Store.mem_cells _ _ _ _).1 hc
          simp; omega
    · intro c hc
      have := (List.mem_filter.1 hc).2
      simp at this; omega

/-! ### The canonical form -/

/-- The canonical form as three facts. -/
theorem Store.wf_iff (n : Nat) (m : Store w) :
    Store.wf n m = true ↔
      (∀ c ∈ m, c.1 < n) ∧ (∀ c ∈ m, c.2 ≠ 0) ∧ m.Pairwise (fun c d => c.1 < d.1) := by
  induction m with
  | nil => simp [Store.wf]
  | cons c m ih =>
    have hd : decide (c.2 ≠ Store.unlisted) = true ↔ c.2 ≠ 0 := by rw [decide_eq_true_iff]; rfl
    simp only [Store.wf, Bool.and_eq_true, hd, decide_eq_true_iff, List.all_eq_true, ih,
      List.pairwise_cons, List.forall_mem_cons]
    tauto

theorem Store.wf_nil (n : Nat) : Store.wf n ([] : Store w) = true := rfl

theorem Store.wf_filter (n : Nat) (m : Store w) (p : Nat × BitVec w → Bool) (h : Store.wf n m = true) :
    Store.wf n (m.filter p) = true := by
  rw [Store.wf_iff] at h ⊢
  obtain ⟨h1, h2, h3⟩ := h
  exact ⟨fun c hc => h1 c (List.mem_filter.1 hc).1, fun c hc => h2 c (List.mem_filter.1 hc).1, h3.filter p⟩

theorem Store.mem_place (m : Store w) (a : Nat) (v : BitVec w) (c : Nat × BitVec w) :
    c ∈ Store.place m a v ↔ c = (a, v) ∨ c ∈ m := by
  induction m with
  | nil => simp [Store.place]
  | cons d m ih =>
    unfold Store.place
    split
    · simp
    · simp only [List.mem_cons, ih]; tauto

theorem Store.wf_place (n : Nat) (m : Store w) (a : Nat) (v : BitVec w) (hm : Store.wf n m = true)
    (ha : a < n) (hv : v ≠ 0) (habs : ∀ c ∈ m, c.1 ≠ a) : Store.wf n (Store.place m a v) = true := by
  rw [Store.wf_iff] at hm ⊢
  obtain ⟨h1, h2, h3⟩ := hm
  refine ⟨?_, ?_, ?_⟩
  · intro c hc
    rcases (Store.mem_place _ _ _ _).1 hc with rfl | hc
    · exact ha
    · exact h1 c hc
  · intro c hc
    rcases (Store.mem_place _ _ _ _).1 hc with rfl | hc
    · exact hv
    · exact h2 c hc
  · clear h1 h2
    induction m with
    | nil => simp [Store.place]
    | cons d m ih =>
      rw [List.pairwise_cons] at h3
      unfold Store.place
      split
      · next hlt =>
        rw [List.pairwise_cons]
        refine ⟨?_, List.pairwise_cons.2 h3⟩
        intro c hc
        rcases List.mem_cons.1 hc with rfl | hc
        · exact hlt
        · exact lt_trans hlt (h3.1 c hc)
      · next hge =>
        rw [List.pairwise_cons]
        refine ⟨?_, ih (fun c hc => habs c (by simp [hc])) h3.2⟩
        intro c hc
        rcases (Store.mem_place _ _ _ _).1 hc with rfl | hc
        · have := habs d (by simp)
          show d.1 < a
          omega
        · exact h3.1 c hc

theorem Store.wf_write (n : Nat) (m : Store w) (a : Nat) (v : BitVec w) (hm : Store.wf n m = true)
    (ha : a < n) : Store.wf n (m.write a v) = true := by
  unfold Store.write
  split
  · exact Store.wf_filter n m _ hm
  · next hv =>
    refine Store.wf_place n _ a v (Store.wf_filter n m _ hm) ha hv ?_
    intro c hc; simpa using (List.mem_filter.1 hc).2

theorem Store.wf_fill (n : Nat) (m : Store w) (len : Nat) (place : Nat → Nat) (val : Nat → BitVec w)
    (hm : Store.wf n m = true) (h : ∀ i, i < len → place i < n) :
    Store.wf n (Store.fill m len place val) = true := by
  induction len with
  | zero => exact hm
  | succ k ih => exact Store.wf_write n _ _ _ (ih (fun i hi => h i (by omega))) (h k (by omega))

theorem Store.pairwise_cells (base n : Nat) (val : Nat → BitVec w) :
    (Store.cells base n val).Pairwise (fun c d => c.1 < d.1) := by
  induction n with
  | zero => simp [Store.cells]
  | succ n ih =>
    rw [Store.cells, List.pairwise_append]
    refine ⟨ih, ?_, ?_⟩
    · split <;> simp
    · intro c hc d hd
      obtain ⟨i, hi, -, rfl⟩ := (Store.mem_cells _ _ _ _).1 hc
      by_cases hv : val n = Store.unlisted
      · simp [hv] at hd
      · simp [hv] at hd
        simp [hd]; omega

theorem Store.wf_splice (n : Nat) (m : Store w) (base len : Nat) (val : Nat → BitVec w)
    (hm : Store.wf n m = true) (h : base + len ≤ n) : Store.wf n (m.splice base len val) = true := by
  have hlo := (Store.wf_iff n _).1 (Store.wf_filter n m (fun c => decide (c.1 < base)) hm)
  have hhi := (Store.wf_iff n _).1 (Store.wf_filter n m (fun c => decide (base + len ≤ c.1)) hm)
  have hcell : ∀ c ∈ Store.cells base len val, base ≤ c.1 ∧ c.1 < base + len ∧ c.2 ≠ 0 := by
    intro c hc
    obtain ⟨i, hi, hv, rfl⟩ := (Store.mem_cells _ _ _ _).1 hc
    exact ⟨by simp, by simpa using hi, hv⟩
  unfold Store.splice
  rw [Store.wf_iff]
  refine ⟨?_, ?_, ?_⟩
  · intro c hc
    rcases List.mem_append.1 hc with hc | hc
    · exact hlo.1 c hc
    · rcases List.mem_append.1 hc with hc | hc
      · have := hcell c hc; omega
      · exact hhi.1 c hc
  · intro c hc
    rcases List.mem_append.1 hc with hc | hc
    · exact hlo.2.1 c hc
    · rcases List.mem_append.1 hc with hc | hc
      · exact (hcell c hc).2.2
      · exact hhi.2.1 c hc
  · rw [List.pairwise_append]
    refine ⟨hlo.2.2, ?_, ?_⟩
    · rw [List.pairwise_append]
      refine ⟨Store.pairwise_cells base len val, hhi.2.2, ?_⟩
      intro c hc d hd
      have h1 := hcell c hc
      have h2 := (List.mem_filter.1 hd).2
      simp at h2; omega
    · intro c hc d hd
      have h1 := (List.mem_filter.1 hc).2
      simp at h1
      rcases List.mem_append.1 hd with hd | hd
      · have := hcell d hd; omega
      · have h2 := (List.mem_filter.1 hd).2
        simp at h2; omega

/-! ### The toroidal primitives (R780, R781) -/

theorem toroidalCopy_wf (dst : Store w) (dcap doff : Nat) (src : Store w) (scap soff len : Nat)
    (hd : Store.wf dcap dst = true) (hc : 0 < dcap) :
    Store.wf dcap (toroidalCopy dst dcap doff src scap soff len) = true := by
  unfold toroidalCopy
  split
  · exact Store.wf_fill _ _ _ _ _ hd (fun i hi => hi)
  · exact Store.wf_fill _ _ _ _ _ hd (fun i _ => Nat.mod_lt _ hc)

theorem toroidalFill_wf (dst : Store w) (dcap doff len : Nat) (val : Nat → BitVec w)
    (hd : Store.wf dcap dst = true) (hc : 0 < dcap) :
    Store.wf dcap (toroidalFill dst dcap doff len val) = true := by
  unfold toroidalFill
  split
  · exact Store.wf_fill _ _ _ _ _ hd (fun i hi => hi)
  · exact Store.wf_fill _ _ _ _ _ hd (fun i _ => Nat.mod_lt _ hc)

end Sys2Proof.Machine
end

