-- ==== Sys2Proof/Laws/Vdp.lean ====
section
/-! SUPPORT. What the VDP's operations change, said once. -/

namespace Sys2Proof.Machine

/-! ### Registers -/

theorem State.vr_setVr (s : State) (i j : BitVec 4) (v : Short) :
    (s.setVr i v).vr j = if i = j then v else s.vr j := Bank.rd_wr _ _ _ _

@[simp] theorem State.vr_setVr_same (s : State) (i : BitVec 4) (v : Short) : (s.setVr i v).vr i = v :=
  Bank.rd_wr_same _ _ _

theorem State.vr_setVr_ne (s : State) (i j : BitVec 4) (v : Short) (h : i ≠ j) : (s.setVr i v).vr j = s.vr j :=
  Bank.rd_wr_ne _ _ _ _ h

@[simp] theorem State.vr_setCram (s : State) (c : Bank 6 Short) (i : BitVec 4) : (s.setCram c).vr i = s.vr i := rfl

@[simp] theorem State.vr_setVram (s : State) (m : Memory) (i : BitVec 4) : (s.setVram m).vr i = s.vr i := rfl

@[simp] theorem State.vr_setCgram (s : State) (m : Memory) (i : BitVec 4) : (s.setCgram m).vr i = s.vr i := rfl

@[simp] theorem State.setVr_cram (s : State) (i : BitVec 4) (v : Short) : (s.setVr i v).cram = s.cram := rfl

@[simp] theorem State.setVr_vram (s : State) (i : BitVec 4) (v : Short) : (s.setVr i v).vram = s.vram := rfl

@[simp] theorem State.setVr_cgram (s : State) (i : BitVec 4) (v : Short) : (s.setVr i v).cgram = s.cgram := rfl

@[simp] theorem State.setVr_params (s : State) (i : BitVec 4) (v : Short) : (s.setVr i v).params = s.params := rfl

theorem BeyondVdpSame.refl (s : State) : BeyondVdpSame s s := by constructor <;> rfl

theorem BeyondVdpSame.setVr {s t : State} (h : BeyondVdpSame s t) (i : BitVec 4) (v : Short) :
    BeyondVdpSame s (t.setVr i v) := by
  cases h; constructor <;> assumption

/-! ### Commands -/

/-- An operation changes at most the registers, the palette, VRAM and CGRAM. -/
theorem vdpOp_beyond (op : WriteOp) (cmd value : Short) (s : State) : BeyondVdpSame s (vdpOp op cmd value s) := by
  cases op <;> constructor <;> rfl

/-- The registers after an executed command: the operation's, then CMD reset, then the dirty bit (R753). -/
theorem vdpExecute_regs (value : Short) (s : State) :
    AfterCommand (vdpExecute value s) (vdpOp (writeOp (s.vr 0)) (s.vr 0) value s).vr (dirtyBit (writeOp (s.vr 0))) := by
  have h10 : (1 : BitVec 4) ≠ 0 := by decide
  simp only [AfterCommand, vdpExecute, VReg.cmd, VReg.mode, State.vr_setVr]
  refine ⟨by simp, by simp, fun i h0 h1 => ?_⟩
  rw [if_neg (Ne.symm h1), if_neg (Ne.symm h0)]

/-- The VDP's memories after an executed command are the operation's. -/
theorem vdpExecute_memories (value : Short) (s : State) :
    let u := vdpOp (writeOp (s.vr 0)) (s.vr 0) value s
    (vdpExecute value s).cram = u.cram ∧ (vdpExecute value s).vram = u.vram ∧ (vdpExecute value s).cgram = u.cgram :=
  ⟨rfl, rfl, rfl⟩

theorem vdpExecute_beyond (value : Short) (s : State) : BeyondVdpSame s (vdpExecute value s) :=
  ((vdpOp_beyond _ _ _ s).setVr _ _).setVr _ _

/-- A write with no command pending latches (R752). -/
theorem vdpWrite_latch (s : State) (h : s.vr 0 = 0) : vdpWrite s = s.setVr 0 (portValue s) := by
  unfold vdpWrite
  rw [show s.vr VReg.cmd = 0 from h, if_pos rfl]
  rfl

/-- A write with a command pending executes it (R753). -/
theorem vdpWrite_execute (s : State) (h : s.vr 0 ≠ 0) : vdpWrite s = vdpExecute (portValue s) s := by
  unfold vdpWrite
  exact if_neg h

/-- A read changes the port pair and CMD (R790). -/
theorem vdpRead_eq (s : State) :
    (vdpRead s).2 = { s with dev := (vdpRead s).2.dev, vreg := s.vreg.wr 0 0 } := rfl

/-! ### Toroidal primitives (R780, R781) -/

/-- A copy not longer than its destination, read back at a place inside it. -/
theorem read_fill_toroidal {w : Nat} (dst : Store w) (cap off len : Nat) (val : Nat → BitVec w) (hl : len ≤ cap)
    (ho : off < cap) (a : Nat) (ha : a < cap) :
    (Store.fill dst len (fun i => (off + i) % cap) val).read a =
      if (a + cap - off) % cap < len then val ((a + cap - off) % cap) else dst.read a := by
  have place : ∀ i, i < cap → ((off + i) % cap = a ↔ i = (a + cap - off) % cap) := by
    intro i hi
    have h1 : (off + i) % cap = if off + i < cap then off + i else off + i - cap := by
      split
      · exact Nat.mod_eq_of_lt (by assumption)
      · rw [Nat.mod_eq_sub_mod (by omega), Nat.mod_eq_of_lt (by omega)]
    have h2 : (a + cap - off) % cap = if off ≤ a then a - off else a + cap - off := by
      split
      · rw [show a + cap - off = (a - off) + cap by omega, Nat.add_mod_right, Nat.mod_eq_of_lt (by omega)]
      · exact Nat.mod_eq_of_lt (by omega)
    rw [h1, h2]
    split <;> split <;> omega
  split
  · next h =>
    have hp := (place _ (by omega)).2 rfl
    conv_lhs => rw [← hp]
    exact Store.read_fill_at dst len (fun i => (off + i) % cap) val _ h (fun j hj e => by
      have e' : (off + j) % cap = a := by simpa [hp] using e
      exact (place j (by omega)).1 e')
  · next h =>
    exact Store.read_fill_ne _ _ _ _ _ (fun i hi e => h ((place i (by omega)).1 e ▸ hi))

/-- Every operation keeps the canonical form of VRAM and CGRAM. -/
theorem vdpOp_wf (op : WriteOp) (cmd value : Short) (s : State) (hv : Memory.wf s.vram = true)
    (hg : Store.wf 1024 s.cgram = true) :
    Memory.wf (vdpOp op cmd value s).vram = true ∧ Store.wf 1024 (vdpOp op cmd value s).cgram = true := by
  have hw : ∀ (a : Short) (v : Byte), Memory.wf (s.vram.write a.toNat v) = true :=
    fun a v => Store.wf_write _ _ _ _ hv a.isLt
  have hf : ∀ off len val, Memory.wf (toroidalFill s.vram 65536 off len val) = true :=
    fun off len val => toroidalFill_wf _ _ _ _ _ hv (by decide)
  have hc : ∀ off scap soff len, Memory.wf (toroidalCopy s.vram 65536 off s.mem scap soff len) = true :=
    fun off scap soff len => toroidalCopy_wf _ _ _ _ _ _ _ hv (by decide)
  have hg' : ∀ scap soff len, Store.wf 1024 (toroidalCopy s.cgram 1024 0 s.mem scap soff len) = true :=
    fun scap soff len => toroidalCopy_wf _ _ _ _ _ _ _ hg (by decide)
  cases op
  case clrVram => exact ⟨hw value 0, hg⟩
  case wrVram => exact ⟨hw _ _, hg⟩
  case copyVram => exact ⟨hc _ _ _ _, hg⟩
  case fillVramConst => exact ⟨hf _ _ _, hg⟩
  case fillVramPattern => exact ⟨hf _ _ _, hg⟩
  case copyCgram => exact ⟨hv, hg' 65536 (s.vr (cmdR cmd)).toNat 1024⟩
  all_goals exact ⟨hv, hg⟩

end Sys2Proof.Machine
end

