-- ==== Sys2Proof/Laws/Bus.lean ====
section
/-! SUPPORT. The bus: which handler a port has, what an access changes, and that it does not look at the
stacks. -/

namespace Sys2Proof.Machine

/-! ### Dispatch -/

theorem readHandler_raw {c : Params} {p : Byte} (h : PlainRead c p) : readHandler c p = .raw := by
  rw [readHandler, if_neg h.1, if_neg h.2]

theorem readHandler_vdp (c : Params) : readHandler c c.vdpPort = .vdp := by
  simp [readHandler]

theorem readHandler_ext {c : Params} {p : Byte} : readHandler c p = .ext ↔ ExtRead c p := by
  unfold readHandler ExtRead
  split
  · simp_all
  · split <;> simp_all

theorem writeHandler_raw {c : Params} {p : Byte} (h : PlainWrite c p) : writeHandler c p = .raw := by
  rw [writeHandler, if_neg h.1, if_neg h.2]

theorem writeHandler_vdp (c : Params) : writeHandler c (c.vdpPort + 1) = .vdp := by
  simp [writeHandler]

theorem writeHandler_ext {c : Params} {p : Byte} : writeHandler c p = .ext ↔ ExtWrite c p := by
  unfold writeHandler ExtWrite
  split
  · simp_all
  · split <;> simp_all

/-! ### What an access changes -/

/-- All that a bus access, or an external handler's change, leaves alone. -/
structure BusFrame (s t : State) : Prop where
  pc : t.pc = s.pc
  callers : t.callers = s.callers
  lastResult : t.lastResult = s.lastResult
  buf : t.buf = s.buf
  hostCalls : t.hostCalls = s.hostCalls
  params : t.params = s.params

theorem BusFrame.refl (s : State) : BusFrame s s := by constructor <;> rfl

theorem BusFrame.trans {s t u : State} (h : BusFrame s t) (k : BusFrame t u) : BusFrame s u where
  pc := k.pc.trans h.pc
  callers := k.callers.trans h.callers
  lastResult := k.lastResult.trans h.lastResult
  buf := k.buf.trans h.buf
  hostCalls := k.hostCalls.trans h.hostCalls
  params := k.params.trans h.params

theorem BusFrame.setStack (s : State) (r : Bool) (x : Stack) : BusFrame s (s.setStack r x) := by
  cases r <;> constructor <;> rfl

theorem BusFrame.of_vdp {s t : State} (h : BeyondVdpSame s t) : BusFrame s t :=
  ⟨h.pc, h.callers, h.lastResult, h.buf, h.hostCalls, h.params⟩

theorem vdpWrite_frame (s : State) : BusFrame s (vdpWrite s) := by
  by_cases h : s.vr 0 = 0
  · rw [vdpWrite_latch s h]
    exact .of_vdp ((BeyondVdpSame.refl s).setVr _ _)
  · rw [vdpWrite_execute s h]
    exact .of_vdp (vdpExecute_beyond _ s)

theorem vdpRead_frame (s : State) : BusFrame s (vdpRead s).2 := by constructor <;> rfl

/-- A bus write, whatever the port: what executes next is as before, or the external handler there. -/
theorem devWrite_frame (p v : Byte) (r : Resume) (s : State) :
    BusFrame s (devWrite p v r s) ∧
      ((¬ ExtWrite s.params p ∧ (devWrite p v r s).phase = s.phase) ∨
       (ExtWrite s.params p ∧ (devWrite p v r s).phase = .handler ⟨p, r, false⟩)) := by
  unfold devWrite
  cases h : writeHandler s.params p with
  | raw =>
    exact ⟨by constructor <;> rfl, .inl ⟨fun e => by simp [writeHandler_ext.2 e] at h, rfl⟩⟩
  | vdp =>
    refine ⟨BusFrame.trans (t := s.setDev (s.dev.wr p v)) (by constructor <;> rfl) (vdpWrite_frame _),
      .inl ⟨fun e => by simp [writeHandler_ext.2 e] at h, ?_⟩⟩
    by_cases hc : (s.setDev (s.dev.wr p v)).vr 0 = 0
    · simp only [vdpWrite_latch _ hc]
      rfl
    · simp only [vdpWrite_execute _ hc]
      exact (vdpExecute_beyond _ _).phase
  | ext => exact ⟨by constructor <;> rfl, .inr ⟨writeHandler_ext.1 h, rfl⟩⟩

/-- A bus read at a port without an external handler. -/
theorem devRead_frame (p : Byte) (s : State) : BusFrame s (devRead p s).2 ∧ (devRead p s).2.phase = s.phase := by
  unfold devRead
  split
  · exact ⟨vdpRead_frame s, rfl⟩
  · exact ⟨.refl s, rfl⟩

/-- One change of an external handler. -/
theorem apply_frame (s : State) (e : ExtEffect) : BusFrame s (s.apply e) ∧ (s.apply e).phase = s.phase := by
  cases e
  case stackByte ret i v => exact ⟨.setStack s ret _, by simp [State.apply]⟩
  case stackPtr ret p => exact ⟨.setStack s ret _, by simp [State.apply]⟩
  all_goals exact ⟨by constructor <;> rfl, rfl⟩

/-- All the changes of one turn of an external handler. -/
theorem apply_all_frame (es : List ExtEffect) (s : State) :
    BusFrame s (es.foldl State.apply s) ∧ (es.foldl State.apply s).phase = s.phase := by
  induction es generalizing s with
  | nil => exact ⟨.refl s, rfl⟩
  | cons e es ih => exact ⟨(apply_frame s e).1.trans (ih _).1, (ih _).2.trans (apply_frame s e).2⟩

/-- The second read of DEI2 and its push. -/
theorem devReadLo_frame (ret : Bool) (hi p : Byte) (s : State) :
    BusFrame s (devReadLo ret hi p s) ∧
      ((¬ ExtRead s.params p ∧ (devReadLo ret hi p s).phase = s.phase) ∨
       (ExtRead s.params p ∧ (devReadLo ret hi p s).phase = .handler ⟨p, .readLo ret hi, false⟩)) := by
  unfold devReadLo
  split
  · next h => exact ⟨by constructor <;> rfl, .inr ⟨readHandler_ext.1 h, rfl⟩⟩
  · next h =>
    exact ⟨(devRead_frame p s).1.trans (.setStack _ _ _),
      .inl ⟨fun e => h (readHandler_ext.2 e), by simp [(devRead_frame p s).2]⟩⟩

/-- The rest of an instruction after its external handler: it is complete, or the next handler runs. -/
theorem resumeInstr_frame (r : Resume) (v : Byte) (s : State) :
    BusFrame s (resumeInstr r v s) ∧
      ((resumeInstr r v s).phase = s.phase ∨
       ∃ p q, (resumeInstr r v s).phase = .handler ⟨p, q, false⟩ ∧ (ExtRead s.params p ∨ ExtWrite s.params p)) := by
  cases r with
  | writeDone => exact ⟨.refl s, .inl rfl⟩
  | writeNext p lo =>
    obtain ⟨h, h' | h'⟩ := devWrite_frame p lo .writeDone s
    · exact ⟨h, .inl h'.2⟩
    · exact ⟨h, .inr ⟨_, _, h'.2, .inr h'.1⟩⟩
  | readByte ret => exact ⟨.setStack _ _ _, .inl (by simp [resumeInstr])⟩
  | readHi ret p =>
    obtain ⟨h, h' | h'⟩ := devReadLo_frame ret v p s
    · exact ⟨h, .inl h'.2⟩
    · exact ⟨h, .inr ⟨_, _, h'.2, .inl h'.1⟩⟩
  | readLo ret hi => exact ⟨.setStack _ _ _, .inl (by simp [resumeInstr])⟩

/-! ### The bus and the stacks -/

theorem vdpOp_setStack (op : WriteOp) (cmd v : Short) (s : State) (r : Bool) (x : Stack) :
    vdpOp op cmd v (s.setStack r x) = (vdpOp op cmd v s).setStack r x := by
  cases op <;> cases r <;> rfl

theorem vdpWrite_setStack (s : State) (r : Bool) (x : Stack) :
    vdpWrite (s.setStack r x) = (vdpWrite s).setStack r x := by
  have hv : ∀ i, (s.setStack r x).vr i = s.vr i := by intro i; cases r <;> rfl
  have hp : portValue (s.setStack r x) = portValue s := by cases r <;> rfl
  have hs : ∀ (t : State) (i : BitVec 4) (v : Short), (t.setStack r x).setVr i v = (t.setVr i v).setStack r x := by
    intro t i v; cases r <;> rfl
  have hr : ∀ (t : State) (i : BitVec 4), (t.setStack r x).vr i = t.vr i := by intro t i; cases r <;> rfl
  by_cases h : s.vr 0 = 0
  · rw [vdpWrite_latch _ ((hv 0).trans h), vdpWrite_latch s h, hp, hs]
  · rw [vdpWrite_execute _ (fun e => h ((hv 0).symm.trans e)), vdpWrite_execute s h, hp]
    simp only [vdpExecute, hr, vdpOp_setStack, hs]

theorem vdpRead_setStack (s : State) (r : Bool) (x : Stack) :
    vdpRead (s.setStack r x) = ((vdpRead s).1, (vdpRead s).2.setStack r x) := by
  cases r <;> rfl

theorem devWrite_setStack (p v : Byte) (k : Resume) (s : State) (r : Bool) (x : Stack) :
    devWrite p v k (s.setStack r x) = (devWrite p v k s).setStack r x := by
  have hd : (s.setStack r x).setDev ((s.setStack r x).dev.wr p v) = (s.setDev (s.dev.wr p v)).setStack r x := by
    cases r <;> rfl
  have hc : ∀ t : State, (t.setStack r x).callHandler p k = (t.callHandler p k).setStack r x := by
    intro t; cases r <;> rfl
  unfold devWrite
  simp only [hd, State.setStack_params, vdpWrite_setStack, hc]
  split <;> rfl

theorem devRead_setStack (p : Byte) (s : State) (r : Bool) (x : Stack) :
    devRead p (s.setStack r x) = ((devRead p s).1, (devRead p s).2.setStack r x) := by
  unfold devRead
  simp only [State.setStack_params, State.setStack_dev, vdpRead_setStack]
  split <;> rfl

end Sys2Proof.Machine
end

