-- ==== Sys2Proof/Laws/Encoding.lean ====
section
/-! SUPPORT. The fields of an opcode byte and the two bytes of a short. -/

namespace Sys2Proof

theorem hiByte_append_loByte (v : Short) : hiByte v ++ loByte v = v := by
  apply BitVec.eq_of_getLsbD_eq
  intro i hi
  simp only [hiByte, loByte, BitVec.getLsbD_append, BitVec.getLsbD_extractLsb']
  by_cases h : i < 8
  · simp [h]
  · simp [h, show i - 8 < 8 by omega, show 8 + (i - 8) = i by omega]

@[simp] theorem loByte_append (a b : Byte) : loByte (a ++ b) = b := by
  apply BitVec.eq_of_getLsbD_eq
  intro i hi
  simp only [loByte, BitVec.getLsbD_extractLsb', BitVec.getLsbD_append]
  simp [hi]

@[simp] theorem hiByte_append (a b : Byte) : hiByte (a ++ b) = a := by
  apply BitVec.eq_of_getLsbD_eq
  intro i hi
  simp only [hiByte, BitVec.getLsbD_extractLsb', BitVec.getLsbD_append]
  simp [hi]

theorem hiByte_eq (v : Short) : hiByte v = BitVec.ofNat 8 (v.toNat / 256) := by
  apply BitVec.eq_of_toNat_eq
  simp [hiByte, Nat.shiftRight_eq_div_pow]

theorem loByte_eq (v : Short) : loByte v = BitVec.ofNat 8 v.toNat := by
  apply BitVec.eq_of_toNat_eq
  simp [loByte]

theorem append_toNat (a b : Byte) : (a ++ b).toNat = a.toNat * 256 + b.toNat := by
  have := a.isLt; have := b.isLt
  rw [BitVec.toNat_append, ← Nat.shiftLeft_add_eq_or_of_lt (by omega), Nat.shiftLeft_eq]

@[simp] theorem decodeBase_opByte (m : Mode) (base : BitVec 5) : decodeBase (opByte m base) = base.toNat := by
  obtain ⟨k, r, s⟩ := m
  revert k r s base
  decide

@[simp] theorem decodeMode_opByte (m : Mode) (base : BitVec 5) : decodeMode (opByte m base) = m := by
  obtain ⟨k, r, s⟩ := m
  revert k r s base
  decide

/-- The eight opcode bytes of base operation 0 (R303). -/
theorem opcode_of_base_zero (op : Byte) (h : decodeBase op = 0) :
    op ∈ [0x00, 0x20, 0x40, 0x60, 0x80, 0xA0, 0xC0, 0xE0] := by
  revert op
  decide

/-- A base operation 1 to 31 is one byte, and its instruction has that byte. -/
theorem encode_decodeOp (op b1 b2 : Byte) (h : decodeBase op ≠ 0) : encode (decodeOp op b1 b2) = [op] := by
  have key : ∀ op : Byte, decodeBase op ≠ 0 → encode (decodeOp op 0 0) = [op] := by decide
  have e : decodeOp op b1 b2 = decodeOp op 0 0 := by
    unfold decodeOp
    split <;> first | rfl | contradiction
  rw [e]
  exact key op h

/-- The length of a decoded instruction, by its opcode byte alone (R300). -/
theorem instrLength_decodeOp (op b1 b2 : Byte) : instrLength (decodeOp op b1 b2) = 1 + immediateBytes op := by
  have key : ∀ op : Byte, instrLength (decodeOp op 0 0) = 1 + immediateBytes op := by decide
  rw [← key op]
  unfold decodeOp
  split <;> try rfl
  unfold decodeForm
  split <;> rfl

end Sys2Proof
end

