-- ==== Sys2Proof/Laws/Operands.lean ====
section
/-! SUPPORT. For each shared operand form, once, everything it does. -/

namespace Sys2Proof.Machine

/-! ### Values and their bytes -/

theorem modulus_dvd (short : Bool) : modulus short ∣ 65536 := by cases short <;> decide

theorem modulus_le (short : Bool) : modulus short ≤ 65536 := by cases short <;> decide

/-- The bytes of a value depend on it modulo 2^(8W) only. -/
theorem wordBytes_congr (short : Bool) (u v : Nat) (h : u % modulus short = v % modulus short) :
    wordBytes short u = wordBytes short v := by
  cases short
  · simp only [modulus, Bool.false_eq_true, if_false] at h
    have : BitVec.ofNat 8 u = BitVec.ofNat 8 v := by apply BitVec.eq_of_toNat_eq; simpa using h
    simp [wordBytes, this]
  · simp only [modulus, if_true] at h
    have h1 : BitVec.ofNat 8 u = BitVec.ofNat 8 v := by apply BitVec.eq_of_toNat_eq; simp; omega
    have h2 : BitVec.ofNat 8 (u / 256) = BitVec.ofNat 8 (v / 256) := by apply BitVec.eq_of_toNat_eq; simp; omega
    simp [wordBytes, h1, h2]

theorem Stack.word_mod (x : Stack) (short : Bool) (n : Nat) : x.word short n % 65536 = x.word short n :=
  Nat.mod_eq_of_lt (lt_of_lt_of_le (Stack.word_lt x short n) (modulus_le short))

/-- The bytes of an operand are the bytes on the stack. -/
theorem wordBytes_word (x : Stack) (short : Bool) (n : Nat) :
    wordBytes short (x.word short n) = if short then [x.under (n + 1), x.under n] else [x.under n] := by
  have h := (x.under n).isLt
  cases short
  · simp [wordBytes, Stack.word]
  · have h1 : BitVec.ofNat 8 (((x.under (n + 1)).toNat * 256 + (x.under n).toNat) / 256) = x.under (n + 1) := by
      apply BitVec.eq_of_toNat_eq; simp; omega
    have h2 : BitVec.ofNat 8 ((x.under (n + 1)).toNat * 256 + (x.under n).toNat) = x.under n := by
      apply BitVec.eq_of_toNat_eq; simp; omega
    simp [wordBytes, Stack.word, h1, h2]

/-- The truth of a condition byte is that it is not zero (R601). -/
theorem condition_ofNat (c : Nat) (h : c < 65536) : condition (BitVec.ofNat 16 c) = decide (c ≠ 0) := by
  have e : (BitVec.ofNat 16 c = 0) ↔ c = 0 := by
    constructor
    · intro e
      have := congrArg BitVec.toNat e
      simp at this
      omega
    · rintro rfl
      rfl
  simp only [condition, bne, ne_eq, decide_not]
  congr 1
  exact decide_eq_decide.2 e

/-- A byte displacement from the next instruction, as a number (R604, R650). -/
theorem relAddr_eq (pc : Short) (d : Nat) :
    relAddr (pc + 1) (BitVec.ofNat 16 d) = BitVec.ofNat 16 (relTarget pc (BitVec.ofNat 8 d)) := by
  have hd : loByte (BitVec.ofNat 16 d) = BitVec.ofNat 8 d := by
    apply BitVec.eq_of_toNat_eq
    simp [loByte]
  rw [relAddr, sext8, hd]
  generalize BitVec.ofNat 8 d = e
  apply BitVec.eq_of_toInt_eq
  have hn : (((pc.toNat : Int) + 1 + e.toInt) % 65536).toNat = ((pc.toNat : Int) + 1 + e.toInt) % 65536 :=
    Int.toNat_of_nonneg (Int.emod_nonneg _ (by decide))
  rw [← BitVec.ofInt_natCast, BitVec.toInt_ofInt, relTarget, hn, BitVec.toInt_add, BitVec.toInt_add,
    BitVec.toInt_signExtend_of_le (by decide), show BitVec.toInt (1 : BitVec 16) = 1 by decide,
    BitVec.toInt_eq_toNat_bmod pc]
  simp only [Int.bmod_add_bmod]
  exact (Int.emod_bmod _ _).symm

/-- The target of JMP, JCN and JSR (R604). -/
theorem target_eq (short : Bool) (pc : Short) (d : Nat) :
    target short (pc + 1) (BitVec.ofNat 16 d) =
      BitVec.ofNat 16 (if short then d else relTarget pc (BitVec.ofNat 8 d)) := by
  cases short
  · exact relAddr_eq pc d
  · rfl

/-- The bytes of a list of results, deepest first. -/
def resultBytes (short : Bool) (vs : List Short) : List Byte := vs.flatMap (fun v => wordBytes short v.toNat)

/-- The active stack after the pops, the keep restore and the pushes of R406. -/
theorem StackEffect.generic (x : Stack) (keep : Bool) (drop : Nat) (short : Bool) (vs : List Short)
    (hl : 2 * vs.length < 256) :
    StackEffect x ((Stack.keepRestore keep x (x.dropped drop)).pushAll short vs) (if keep then 0 else drop)
      (resultBytes short vs) := by
  rw [Stack.keepRestore_dropped]
  simpa [resultBytes] using (StackEffect.drop x (if keep then 0 else drop)).pushAll short vs (by simpa using hl)

/-- A state that changes only its active stack and its program counter. -/
theorem cpuEffect_active (m : Mode) (s : State) (x : Stack) (pc : Short) (drop : Nat) (bs : List Byte)
    (h : StackEffect (s.stack m.ret) x (if m.keep then 0 else drop) bs) :
    CpuEffect m s ((s.setPc pc).setStack m.ret x) drop bs [] pc ∧
      NoStore s ((s.setPc pc).setStack m.ret x) := by
  refine ⟨⟨by simpa using h, by simpa using StackEffect.refl _, by simp, ?_⟩, fun a => by simp, by simp⟩
  exact ((OutsideSame.refl s).setPc pc).setStack m.ret x

theorem withOne_effect (m : Mode) (f : Short → List Short) (s : State)
    (hl : 2 * (f (BitVec.ofNat 16 ((s.stack m.ret).word m.short 0))).length < 256) :
    CpuEffect m s (withOne m f s) (width m.short)
      (resultBytes m.short (f (BitVec.ofNat 16 ((s.stack m.ret).word m.short 0)))) [] (s.pc + 1) ∧
      NoStore s (withOne m f s) := by
  unfold withOne State.advance
  simp only [Stack.pop_eq]
  exact cpuEffect_active m s _ _ _ _ (StackEffect.generic _ _ _ _ _ hl)

theorem withTwo_effect (m : Mode) (f : Short → Short → List Short) (s : State)
    (hl : 2 * (f (BitVec.ofNat 16 ((s.stack m.ret).word m.short (width m.short)))
      (BitVec.ofNat 16 ((s.stack m.ret).word m.short 0))).length < 256) :
    CpuEffect m s (withTwo m f s) (2 * width m.short)
      (resultBytes m.short (f (BitVec.ofNat 16 ((s.stack m.ret).word m.short (width m.short)))
        (BitVec.ofNat 16 ((s.stack m.ret).word m.short 0)))) [] (s.pc + 1) ∧
      NoStore s (withTwo m f s) := by
  unfold withTwo State.advance
  simp only [Stack.pop_eq, Stack.word_dropped, Stack.dropped_dropped, Nat.add_zero, ← Nat.two_mul]
  exact cpuEffect_active m s _ _ _ _ (StackEffect.generic _ _ _ _ _ hl)

theorem withThree_effect (m : Mode) (f : Short → Short → Short → List Short) (s : State)
    (hl : ∀ a b c, 2 * (f a b c).length < 256) :
    CpuEffect m s (withThree m f s) (3 * width m.short)
      (resultBytes m.short (f (BitVec.ofNat 16 ((s.stack m.ret).word m.short (2 * width m.short)))
        (BitVec.ofNat 16 ((s.stack m.ret).word m.short (width m.short)))
        (BitVec.ofNat 16 ((s.stack m.ret).word m.short 0)))) [] (s.pc + 1) ∧
      NoStore s (withThree m f s) := by
  unfold withThree State.advance
  simp only [Stack.pop_eq, Stack.word_dropped, Stack.dropped_dropped, Nat.add_zero, ← Nat.two_mul]
  rw [show 2 * width m.short + width m.short = 3 * width m.short by omega]
  exact cpuEffect_active m s _ _ _ _ (StackEffect.generic _ _ _ _ _ (hl _ _ _))

/-- One push of one value on the active stack after its pops. -/
theorem StackEffect.genericOne (x : Stack) (keep : Bool) (drop : Nat) (short : Bool) (v : Short) :
    StackEffect x ((Stack.keepRestore keep x (x.dropped drop)).push short v) (if keep then 0 else drop)
      (wordBytes short v.toNat) := by
  rw [Stack.keepRestore_dropped]
  simpa using (StackEffect.drop x (if keep then 0 else drop)).push (by simp) short v

/-- The active stack after pops without a push. -/
theorem StackEffect.genericNone (x : Stack) (keep : Bool) (drop : Nat) :
    StackEffect x (Stack.keepRestore keep x (x.dropped drop)) (if keep then 0 else drop) [] := by
  rw [Stack.keepRestore_dropped]
  exact StackEffect.drop x _

theorem boolByte_bytes (b : Bool) : wordBytes false (boolByte b).toNat = [if b then 1 else 0] := by
  cases b <;> rfl

theorem compareTwo_effect (m : Mode) (rel : Short → Short → Bool) (s : State) :
    CpuEffect m s (compareTwo m rel s) (2 * width m.short)
      [if rel (BitVec.ofNat 16 ((s.stack m.ret).word m.short (width m.short)))
        (BitVec.ofNat 16 ((s.stack m.ret).word m.short 0)) then 1 else 0] [] (s.pc + 1) ∧
      NoStore s (compareTwo m rel s) := by
  unfold compareTwo State.advance
  simp only [Stack.pop_eq, Stack.word_dropped, Stack.dropped_dropped, Nat.add_zero, ← Nat.two_mul]
  rw [← boolByte_bytes]
  exact cpuEffect_active m s _ _ _ _ (StackEffect.genericOne _ _ _ _ _)

theorem loadOp_effect (m : Mode) (wide : Bool) (value : Short → Short) (s : State) :
    CpuEffect m s (loadOp m wide value s) (width wide)
      (wordBytes m.short (value (BitVec.ofNat 16 ((s.stack m.ret).word wide 0))).toNat) [] (s.pc + 1) ∧
      NoStore s (loadOp m wide value s) := by
  unfold loadOp State.advance
  simp only [Stack.pop_eq]
  exact cpuEffect_active m s _ _ _ _ (StackEffect.genericOne _ _ _ _ _)

/-- A store's effect on the CPU, and the memory it leaves. -/
theorem storeOp_effect (m : Mode) (wide : Bool) (store : Short → Short → Memory) (s : State) :
    CpuEffect m s (storeOp m wide store s) (width wide + width m.short) [] [] (s.pc + 1) ∧
      (storeOp m wide store s).dev = s.dev ∧
      (storeOp m wide store s).mem = store (BitVec.ofNat 16 ((s.stack m.ret).word wide 0))
        (BitVec.ofNat 16 ((s.stack m.ret).word m.short (width wide))) := by
  unfold storeOp State.advance
  simp only [Stack.pop_eq, Stack.word_dropped, Stack.dropped_dropped, Nat.add_zero]
  obtain ⟨h, -⟩ := cpuEffect_active m s _ (s.pc + 1) _ _
    (StackEffect.genericNone (s.stack m.ret) m.keep (width wide + width m.short))
  exact ⟨⟨by simpa using h.active, by simpa using h.other, by simp, h.outside.setMem _⟩, by simp, by simp⟩

/-! ### Memory primitives (R203, R204) -/

/-- Two writes of a short at two different addresses. -/
theorem read_write2 {w : Nat} (m : Store w) (a b c : Nat) (u v : BitVec w) :
    ((m.write a u).write b v).read c = if b = c then v else if a = c then u else m.read c := by
  rw [Store.read_write, Store.read_write]

theorem memWrite_wf (m : Memory) (short : Bool) (a v : Short) (h : Memory.wf m = true) :
    Memory.wf (memWrite m short a v) = true := by
  have h1 : a.toNat < 65536 := a.isLt
  have h2 : (a + 1).toNat < 65536 := (a + 1).isLt
  unfold memWrite Memory.wf
  split
  · exact Store.wf_write _ _ _ _ (Store.wf_write _ _ _ _ h h1) h2
  · exact Store.wf_write _ _ _ _ h h1

theorem zpWrite_wf (m : Memory) (short : Bool) (a : Byte) (v : Short) (h : Memory.wf m = true) :
    Memory.wf (zpWrite m short a v) = true := by
  have h1 := a.isLt
  have h2 := (a + 1).isLt
  unfold zpWrite Memory.wf
  split
  · exact Store.wf_write _ _ _ _ (Store.wf_write _ _ _ _ h (by omega)) (by omega)
  · exact Store.wf_write _ _ _ _ h (by omega)

end Sys2Proof.Machine
end

