-- ==== Sys2Proof/Laws/Exec.lean ====
section
/-! SUPPORT. What no instruction changes, and when one does not complete in its step. -/

namespace Sys2Proof.Machine

/-- What every instruction but BRK leaves alone. -/
structure ExecFrame (s t : State) : Prop where
  callers : t.callers = s.callers
  lastResult : t.lastResult = s.lastResult
  buf : t.buf = s.buf
  hostCalls : t.hostCalls = s.hostCalls
  params : t.params = s.params

/-- What executes next is as before, or an external handler does. -/
def PhaseKept (s t : State) : Prop :=
  t.phase = s.phase ∨
    ∃ p r, t.phase = .handler ⟨p, r, false⟩ ∧ (ExtRead s.params p ∨ ExtWrite s.params p)

theorem ExecFrame.of_outside {s t : State} (h : OutsideSame s t) : ExecFrame s t ∧ PhaseKept s t :=
  ⟨⟨h.callers, h.lastResult, h.buf, h.hostCalls, h.params⟩, .inl h.phase⟩

theorem ExecFrame.of_bus {s t u : State} (h : OutsideSame s t) (k : BusFrame t u) : ExecFrame s u :=
  ⟨k.callers.trans h.callers, k.lastResult.trans h.lastResult, k.buf.trans h.buf, k.hostCalls.trans h.hostCalls,
    k.params.trans h.params⟩

theorem withOne_outside (m : Mode) (f : Short → List Short) (s : State) : OutsideSame s (withOne m f s) :=
  ((OutsideSame.refl s).setPc _).setStack _ _

theorem withTwo_outside (m : Mode) (f : Short → Short → List Short) (s : State) : OutsideSame s (withTwo m f s) :=
  ((OutsideSame.refl s).setPc _).setStack _ _

theorem withThree_outside (m : Mode) (f : Short → Short → Short → List Short) (s : State) :
    OutsideSame s (withThree m f s) :=
  ((OutsideSame.refl s).setPc _).setStack _ _

theorem compareTwo_outside (m : Mode) (f : Short → Short → Bool) (s : State) : OutsideSame s (compareTwo m f s) :=
  ((OutsideSame.refl s).setPc _).setStack _ _

theorem loadOp_outside (m : Mode) (w : Bool) (f : Short → Short) (s : State) : OutsideSame s (loadOp m w f s) :=
  ((OutsideSame.refl s).setPc _).setStack _ _

theorem storeOp_outside (m : Mode) (w : Bool) (f : Short → Short → Memory) (s : State) :
    OutsideSame s (storeOp m w f s) :=
  (((OutsideSame.refl s).setPc _).setStack _ _).setMem _

/-- The state in which DEI or DEO makes its first access: operands popped or kept (R408). -/
theorem accessPoint_outside (m : Mode) (s : State) (x : Stack) : OutsideSame s ((s.advance 1).setStack m.ret x) :=
  ((OutsideSame.refl s).setPc _).setStack _ _

theorem devReadByte_frame (ret : Bool) (p : Byte) (s : State) :
    BusFrame s (devReadByte ret p s) ∧ PhaseKept s (devReadByte ret p s) := by
  unfold devReadByte
  split
  · next h => exact ⟨by constructor <;> rfl, .inr ⟨p, _, rfl, .inl (readHandler_ext.1 h)⟩⟩
  · exact ⟨(devRead_frame p s).1.trans (.setStack _ _ _), .inl (by simp [(devRead_frame p s).2])⟩

theorem devRead2_frame (ret : Bool) (p : Byte) (s : State) :
    BusFrame s (devRead2 ret p s) ∧ PhaseKept s (devRead2 ret p s) := by
  unfold devRead2
  split
  · next h => exact ⟨by constructor <;> rfl, .inr ⟨p, _, rfl, .inl (readHandler_ext.1 h)⟩⟩
  · have h1 := devRead_frame p s
    obtain ⟨h2, h3⟩ := devReadLo_frame ret (devRead p s).1 (p + 1) (devRead p s).2
    refine ⟨h1.1.trans h2, ?_⟩
    rcases h3 with h3 | h3
    · exact .inl (h3.2.trans h1.2)
    · exact .inr ⟨_, _, h3.2, .inl (h1.1.params ▸ h3.1)⟩

theorem devWrite_kept (p v : Byte) (r : Resume) (s : State) :
    BusFrame s (devWrite p v r s) ∧ PhaseKept s (devWrite p v r s) := by
  obtain ⟨h, h' | h'⟩ := devWrite_frame p v r s
  · exact ⟨h, .inl h'.2⟩
  · exact ⟨h, .inr ⟨_, _, h'.2, .inr h'.1⟩⟩

theorem devWrite2_frame (p hi lo : Byte) (s : State) :
    BusFrame s (devWrite2 p hi lo s) ∧ PhaseKept s (devWrite2 p hi lo s) := by
  unfold devWrite2
  split
  · exact devWrite_kept _ _ _ _
  · next hx =>
    obtain ⟨h1, h2⟩ := devWrite_frame p hi .writeDone s
    obtain ⟨h3, h4⟩ := devWrite_kept (p + 1) lo .writeDone (devWrite p hi .writeDone s)
    have h5 : (devWrite p hi .writeDone s).phase = s.phase := by
      rcases h2 with h2 | h2
      · exact h2.2
      · exact absurd (writeHandler_ext.2 h2.1) hx
    refine ⟨h1.trans h3, ?_⟩
    rcases h4 with h4 | ⟨q, r, h4, h6⟩
    · exact .inl (h4.trans h5)
    · exact .inr ⟨q, r, h4, h1.params ▸ h6⟩

theorem PhaseKept.after {s t u : State} (h : OutsideSame s t) (k : PhaseKept t u) : PhaseKept s u := by
  rcases k with k | ⟨p, r, k, e⟩
  · exact .inl (k.trans h.phase)
  · exact .inr ⟨p, r, k, h.params ▸ e⟩

/-- Every instruction but BRK answers a next state, keeps the callers and the host's side, and is complete
unless an external handler runs next. -/
theorem exec_frame (i : Instr) (s : State) (hi : i ≠ .brk) :
    ∃ t, exec i s = .next t ∧ ExecFrame s t ∧ PhaseKept s t := by
  have out : ∀ t, exec i s = .next t → OutsideSame s t → ∃ t, exec i s = .next t ∧ ExecFrame s t ∧ PhaseKept s t :=
    fun t h o => ⟨t, h, ExecFrame.of_outside o⟩
  have bus : ∀ t u, exec i s = .next u → OutsideSame s t → BusFrame t u ∧ PhaseKept t u →
      ∃ t, exec i s = .next t ∧ ExecFrame s t ∧ PhaseKept s t :=
    fun t u h o k => ⟨u, h, .of_bus o k.1, .after o k.2⟩
  cases i
  case brk => exact absurd rfl hi
  case jci d => exact out _ rfl (((OutsideSame.refl s).setStack false _).setPc _)
  case jmi d => exact out _ rfl ((OutsideSame.refl s).setPc _)
  case jsi d => exact out _ rfl (((OutsideSame.refl s).setStack true _).setPc _)
  case lit v => exact out _ rfl (((OutsideSame.refl s).setPc _).setStack false _)
  case lit2 v => exact out _ rfl (((OutsideSame.refl s).setPc _).setStack false _)
  case litr v => exact out _ rfl (((OutsideSame.refl s).setPc _).setStack true _)
  case lit2r v => exact out _ rfl (((OutsideSame.refl s).setPc _).setStack true _)
  case inc m => exact out _ rfl (withOne_outside _ _ _)
  case pop m => exact out _ rfl (withOne_outside _ _ _)
  case dup m => exact out _ rfl (withOne_outside _ _ _)
  case rot m => exact out _ rfl (withThree_outside _ _ _)
  case equ m => exact out _ rfl (compareTwo_outside _ _ _)
  case neq m => exact out _ rfl (compareTwo_outside _ _ _)
  case gth m => exact out _ rfl (compareTwo_outside _ _ _)
  case lth m => exact out _ rfl (compareTwo_outside _ _ _)
  case jmp m => exact out _ rfl (((OutsideSame.refl s).setStack _ _).setPc _)
  case jcn m => exact out _ rfl (((OutsideSame.refl s).setStack _ _).setPc _)
  case jsr m => exact out _ rfl ((((OutsideSame.refl s).setStack _ _).setStack _ _).setPc _)
  case sth m => exact out _ rfl ((((OutsideSame.refl s).setPc _).setStack _ _).setStack _ _)
  case ldz m => exact out _ rfl (loadOp_outside _ _ _ _)
  case ldr m => exact out _ rfl (loadOp_outside _ _ _ _)
  case lda m => exact out _ rfl (loadOp_outside _ _ _ _)
  case stz m => exact out _ rfl (storeOp_outside _ _ _ _)
  case str m => exact out _ rfl (storeOp_outside _ _ _ _)
  case sta m => exact out _ rfl (storeOp_outside _ _ _ _)
  case sft m => exact out _ rfl (((OutsideSame.refl s).setPc _).setStack _ _)
  case dei m =>
    let x := s.stack m.ret
    refine bus _ _ rfl (accessPoint_outside m s (Stack.keepRestore m.keep x (x.pop false).2)) ?_
    split
    · exact devRead2_frame _ _ _
    · exact devReadByte_frame _ _ _
  case deo m =>
    let x := s.stack m.ret
    refine bus _ _ rfl (accessPoint_outside m s (Stack.keepRestore m.keep x ((x.pop false).2.pop m.short).2)) ?_
    split
    · exact devWrite2_frame _ _ _ _
    · exact devWrite_kept _ _ _ _
  all_goals exact out _ rfl (withTwo_outside _ _ _)

end Sys2Proof.Machine
end

