-- ==== Sys2Proof/Laws/HostSide.lean ====
section
/-! SUPPORT. The host's bulk load: which bytes it changes, and that it keeps the canonical form. -/

namespace Sys2Proof.Machine

/-- Startup memory is in canonical form: nothing is listed. -/
theorem State.reset_mem_wf : Memory.wf State.reset.mem = true := rfl

theorem bulkLoad_wf (image : List Byte) (m : Memory) (off : Nat) (h : Memory.wf m = true) :
    Memory.wf (bulkLoad m off image) = true := by
  induction image generalizing m off with
  | nil => exact h
  | cons b rest ih => exact ih _ _ (Store.wf_write _ _ _ _ h (Nat.mod_lt _ (by decide)))

/-- An address no byte of the image goes to keeps its byte (R951). -/
theorem read_bulkLoad_ne (image : List Byte) (m : Memory) (off a : Nat)
    (h : ∀ i, i < image.length → (off + i) % 65536 ≠ a) : (bulkLoad m off image).read a = m.read a := by
  induction image generalizing m off with
  | nil => rfl
  | cons b rest ih =>
    have h0 := h 0 (by simp)
    rw [bulkLoad, ih, Store.read_write, if_neg (by simpa using h0)]
    intro i hi
    have := h (i + 1) (by simpa using hi)
    rwa [show off + (i + 1) = off + 1 + i by omega] at this

/-- An address has the last byte of the image that goes to it (R951). -/
theorem read_bulkLoad (image : List Byte) (m : Memory) (off i : Nat) (hi : i < image.length)
    (last : ∀ j, i < j → j < image.length → (off + j) % 65536 ≠ (off + i) % 65536) :
    some ((bulkLoad m off image).read ((off + i) % 65536)) = image[i]? := by
  induction image generalizing m off i with
  | nil => simp at hi
  | cons b rest ih =>
    rw [bulkLoad]
    cases i with
    | zero =>
      rw [read_bulkLoad_ne, Store.read_write, if_pos (by simp)]
      · rfl
      · intro j hj
        have := last (j + 1) (by omega) (by simpa using hj)
        rwa [show off + (j + 1) = off + 1 + j by omega] at this
    | succ i =>
      have := ih (m.write (off % 65536) b) (off + 1) i (by simpa using hi) (fun j h1 h2 => by
        have := last (j + 1) (by omega) (by simpa using h2)
        rwa [show off + (j + 1) = off + 1 + j by omega, show off + (i + 1) = off + 1 + i by omega] at this)
      rw [show off + (i + 1) = off + 1 + i by omega]
      simpa using this

end Sys2Proof.Machine
end

