-- ==== Sys2Proof/Laws/Renderer.lean ====
section
/-! SUPPORT. The renderer's operations: the row cache, what a pixel depends on, and a row's drawing. -/

namespace Sys2Proof.Machine

/-! ### The sprite row cache (R810) -/

/-- The cache after a walk: the slots before, the entries found, the sentinel, the old slots above. -/
theorem cells_storeSlots (c : Regs 33 SpriteSlot) (i : Nat) (found : List SpriteSlot) (h : i + found.length < 33) :
    (storeSlots c i found).cells =
      c.cells.take i ++ found ++ SpriteSlot.zero :: c.cells.drop (i + found.length + 1) := by
  induction found generalizing c i with
  | nil =>
    simp only [storeSlots, Regs.cells_put, List.append_nil, List.length_nil, Nat.add_zero]
    exact List.set_eq_take_append_cons_drop .. |>.trans (by rw [if_pos (by simpa using h)])
  | cons e rest ih =>
    simp only [List.length_cons] at h
    rw [storeSlots, ih _ _ (by omega), Regs.cells_put]
    have h1 : (c.cells.set i e).take (i + 1) = c.cells.take i ++ [e] := by
      have hl : (c.cells.take i).length = i := by rw [List.length_take, Regs.cells_length]; omega
      rw [List.set_eq_take_append_cons_drop, if_pos (by rw [Regs.cells_length]; omega), List.take_append, hl,
        List.take_of_length_le (by rw [hl]; omega)]
      simp
    have h2 : (c.cells.set i e).drop (i + 1 + rest.length + 1) = c.cells.drop (i + 1 + rest.length + 1) := by
      rw [List.drop_set_of_lt (by omega)]
    rw [h1, h2]
    simp [Nat.add_assoc, Nat.add_comm 1]

/-- A walk that has `n` matches finds at most what is left of the 32. -/
theorem length_spriteWalk (s : State) (y fuel idx n : Nat) (h : n < 32) :
    (spriteWalk s y fuel idx n).length + n ≤ 32 := by
  induction fuel generalizing idx n with
  | zero => simp [spriteWalk]; omega
  | succ fuel ih =>
    simp only [spriteWalk, Config.spriteSlots]
    by_cases hit : spriteMatch (spriteEntry s idx) y = true
    · simp only [hit, if_true, List.length_singleton]
      by_cases h1 : n + 1 = 32
      · rw [if_pos h1]; simp; omega
      · rw [if_neg h1]
        split
        · simp; omega
        · have := ih (spriteLink (spriteEntry s idx).w1) (n + 1) (by omega)
          simp; omega
    · simp only [hit]
      by_cases h1 : n = 32
      · omega
      · simp only [Bool.false_eq_true, if_false, List.length_nil, Nat.add_zero, if_neg h1]
        split
        · simp; omega
        · simpa using ih (spriteLink (spriteEntry s idx).w1) n h

/-- Every entry a walk finds is an entry of the list and matches the row. -/
theorem mem_spriteWalk (s : State) (y fuel idx n : Nat) (hi : idx < 256) (e : SpriteSlot)
    (h : e ∈ spriteWalk s y fuel idx n) :
    spriteMatch e y = true ∧ ∃ j, j < 256 ∧ e = spriteEntry s j := by
  induction fuel generalizing idx n with
  | zero => simp [spriteWalk] at h
  | succ fuel ih =>
    have hl : spriteLink (spriteEntry s idx).w1 < 256 := by
      unfold spriteLink
      exact (BitVec.extractLsb' 0 8 (spriteEntry s idx).w1).isLt
    have hit : ∀ e', e' ∈ (if spriteMatch (spriteEntry s idx) y = true then [spriteEntry s idx] else []) →
        spriteMatch e' y = true ∧ ∃ j, j < 256 ∧ e' = spriteEntry s j := by
      intro e' he
      split at he
      · next hm =>
        rw [List.mem_singleton] at he
        subst he
        exact ⟨hm, idx, hi, rfl⟩
      · simp at he
    simp only [spriteWalk] at h
    generalize (if spriteMatch (spriteEntry s idx) y = true then [spriteEntry s idx] else []) = hits at h hit
    split at h
    · exact hit e h
    · split at h
      · exact hit e h
      · rcases List.mem_append.1 h with h | h
        · exact hit e h
        · exact ih _ _ hl h

/-- A walk looks at the sprite base and VRAM alone. -/
theorem spriteWalk_congr (s s' : State) (hb : s'.vr VReg.spriteBase = s.vr VReg.spriteBase) (hv : s'.vram = s.vram)
    (y fuel idx n : Nat) : spriteWalk s' y fuel idx n = spriteWalk s y fuel idx n := by
  have he : ∀ i, spriteEntry s' i = spriteEntry s i := by
    intro i
    simp only [spriteEntry, hb, hv]
  induction fuel generalizing idx n with
  | zero => rfl
  | succ fuel ih => simp only [spriteWalk, he, ih]

/-- The scan stops at the sentinel: what lies above it is never seen. -/
theorem spriteScan_sentinel (vram : Memory) (x y : Nat) (found rest : List SpriteSlot) (best : Option LayerPixel)
    (h : ∀ e ∈ found, e.w0 ≠ 0) :
    spriteScan vram x y (found ++ SpriteSlot.zero :: rest) best = spriteScan vram x y found best := by
  induction found generalizing best with
  | nil => rfl
  | cons e found ih =>
    have ih' := fun b => ih b (fun e he => h e (List.mem_cons_of_mem _ he))
    simp only [List.cons_append, spriteScan, if_neg (h e List.mem_cons_self)]
    split
    · exact ih' best
    · split
      · rfl
      · exact ih' _

/-! ### What a pixel depends on -/

theorem pixel_congr (s s' : State) (x y : Nat) (hr : s'.vreg = s.vreg) (hv : s'.vram = s.vram)
    (hg : s'.cgram = s.cgram) (hp : s'.pcache = s.pcache) (hs : spritePixel s' x y = spritePixel s x y) :
    pixel s' x y = pixel s x y := by
  have hvr : ∀ i, s'.vr i = s.vr i := fun i => by rw [State.vr, State.vr, hr]
  simp only [pixel, textCell, textPixel, hvr, hv, hg, hp, hs]
  congr

/-- A drawn row: its 320 pixels, and no other. -/
theorem drawRow_buf (y : Nat) (s : State) (a : Nat) :
    (drawRow y s).buf.read a =
      if y * 320 ≤ a ∧ a < y * 320 + 320 then pixel s (a - y * 320) y else s.buf.read a :=
  Store.read_splice _ _ _ _ _

/-- Drawing a row changes the buffer alone. -/
theorem drawRow_eq (y : Nat) (s : State) : drawRow y s = { s with buf := (drawRow y s).buf } := rfl

/-! ### What each step of a frame changes -/

theorem renderVblank_eq (s : State) :
    renderVblank s = { s with phase := (renderVblank s).phase, pc := (renderVblank s).pc,
                              callers := (renderVblank s).callers } := by
  unfold renderVblank
  split <;> rfl

theorem renderSkipTest_eq (s : State) :
    renderSkipTest s = { s with phase := (renderSkipTest s).phase, vreg := (renderSkipTest s).vreg } := by
  unfold renderSkipTest
  split <;> rfl

theorem renderRowStart_eq (y : Fin 224) (s : State) :
    renderRowStart y s = { s with phase := (renderRowStart y s).phase, pc := (renderRowStart y s).pc,
                                  callers := (renderRowStart y s).callers, scache := (buildSpriteCache y s).scache } := by
  unfold renderRowStart
  dsimp only
  split <;> rfl

/-- The state a row is drawn in: the palette rebuilt if it was dirty, and the dirty bits clear. -/
def rowDrawState (s : State) : State :=
  { s with
    pcache := if dirtyPal (s.vr 1) then s.cram.mapAll rgba else s.pcache
    vreg := s.vreg.wr 1 (s.vr 1 &&& 0x0FFF) }

theorem renderRowDraw_eq (y : Fin 224) (s : State) :
    renderRowDraw y s = (drawRow y (rowDrawState s)).setPhase (nextRow y) := by
  unfold renderRowDraw rowDrawState
  dsimp only
  cases h : dirtyPal (s.vr 1)
  · rw [show dirtyPal (s.vr VReg.mode) = false from h]
    rfl
  · rw [show dirtyPal (s.vr VReg.mode) = true from h]
    rfl

end Sys2Proof.Machine
end

