-- ==== Sys2Proof/Laws/Layers.lean ====
section
/-! SUPPORT. The renderer's fields and layer pixels in the rules' own arithmetic, and what the sprite scan
and the sprite walk answer. -/

namespace Sys2Proof.Machine

/-! ### Words, patterns and fields -/

theorem vramWord_toNat (vram : Memory) (a : Nat) : (vramWord vram a).toNat = wordAt vram a :=
  append_toNat _ _

theorem patternPixel_toNat (vram : Memory) (n tx ty : Nat) :
    (patternPixel vram n tx ty).toNat = nibbleAt vram n tx ty := by
  unfold patternPixel nibbleAt vramByte
  dsimp only
  generalize vram.read _ = b
  have := b.isLt
  split
  · simp [Nat.shiftRight_eq_div_pow]; omega
  · simp

theorem cellPid_eq (e : Short) : cellPid e = e.toNat % 2048 := by simp [cellPid]

theorem cellHflip_eq (e : Short) : cellHflip e = decide (e.toNat / 2048 % 2 = 1) := by
  simp [cellHflip, BitVec.getLsbD, Nat.testBit, Nat.shiftRight_eq_div_pow]
  rcases Nat.mod_two_eq_zero_or_one (e.toNat / 2048) with h | h <;> simp [h]

theorem cellVflip_eq (e : Short) : cellVflip e = decide (e.toNat / 4096 % 2 = 1) := by
  simp [cellVflip, BitVec.getLsbD, Nat.testBit, Nat.shiftRight_eq_div_pow]
  rcases Nat.mod_two_eq_zero_or_one (e.toNat / 4096) with h | h <;> simp [h]

theorem cellPri_iff (e : Short) : cellPri e = true ↔ 32768 ≤ e.toNat := by
  have := e.isLt
  simp [cellPri, BitVec.getLsbD, Nat.testBit, Nat.shiftRight_eq_div_pow]
  omega

/-- A layer pixel (R829). -/
theorem layerPixel_shows (e : Short) (v : BitVec 4) : Shows (layerPixel e v) e.toNat v.toNat := by
  refine ⟨fun h => ?_, fun h => ?_⟩
  · rw [layerPixel, if_pos (by apply BitVec.eq_of_toNat_eq; exact h)]
  · refine ⟨_, by rw [layerPixel, if_neg (fun hv => h (by rw [hv]; rfl))], ?_, cellPri_iff e⟩
    have := v.isLt
    show (cellRow e ++ v).toNat = _
    rw [BitVec.toNat_append, ← Nat.shiftLeft_add_eq_or_of_lt (by omega), Nat.shiftLeft_eq]
    simp [cellRow, Nat.shiftRight_eq_div_pow]

theorem spriteW_eq (w1 : Short) : spriteW w1 = spritePixels (w1.toNat / 1024) := by
  simp [spriteW, spritePixels, Nat.shiftRight_eq_div_pow]

theorem spriteH_eq (w1 : Short) : spriteH w1 = spritePixels (w1.toNat / 256) := by
  simp [spriteH, spritePixels, Nat.shiftRight_eq_div_pow]

theorem spriteCoord_eq (w : Short) : spriteCoord w = w.toNat % 512 := by simp [spriteCoord]

theorem spriteLink_eq (w : Short) : spriteLink w = w.toNat % 256 := by simp [spriteLink]

/-- One cached sprite at a pixel (R824). -/
theorem spriteAt_shows (vram : Memory) (e : SpriteSlot) (x y : Nat) :
    Shows (spriteAt vram e x y) e.w0.toNat (spriteNibble vram e x y) := by
  unfold spriteAt spriteNibble
  simp only [spriteW_eq, spriteH_eq, spriteCoord_eq, wrapSub, cellHflip_eq, cellVflip_eq, cellPid_eq,
    decide_eq_true_eq]
  split
  · exact ⟨fun _ => rfl, fun h => absurd rfl h⟩
  · rw [← patternPixel_toNat]
    exact layerPixel_shows _ _

/-! ### The scan and the walk -/

/-- A scan answers the first opaque priority pixel before the sentinel, else the best so far, else the first
opaque one (R824). -/
theorem spriteScan_eq (vram : Memory) (x y : Nat) (slots : List SpriteSlot) (best : Option LayerPixel) :
    let shown := slots.takeWhile (fun e => e.w0 != 0)
    spriteScan vram x y slots best =
      (match (shown.filterMap (fun e => spriteAt vram e x y)).find? (fun p => p.pri) with
        | some p => some p
        | none => best.or ((shown.filterMap (fun e => spriteAt vram e x y)).head?)) := by
  induction slots generalizing best with
  | nil => simp [spriteScan]
  | cons e rest ih =>
    dsimp only at ih ⊢
    unfold spriteScan
    by_cases h0 : e.w0 = 0
    · simp [h0]
    · rw [if_neg h0, List.takeWhile_cons_of_pos (by simpa using h0)]
      cases h : spriteAt vram e x y with
      | none => simp only [List.filterMap_cons, h]; exact ih best
      | some p =>
        dsimp only
        simp only [List.filterMap_cons, h]
        cases hp : p.pri
        · simp only [hp, List.find?_cons]
          rw [if_neg (by simp), ih]
          generalize (rest.takeWhile (fun e => e.w0 != 0)).filterMap (fun e => spriteAt vram e x y) = l
          cases l.find? (fun p => p.pri) with
          | some q => rfl
          | none => cases best <;> simp
        · simp [hp]

/-- A walk of the sprite list caches the matches of the entries it examines, in order, and ends where R810
says. -/
theorem spriteWalk_eq_spritesOf (s : State) (y fuel idx n : Nat) (hf : 0 < fuel) (hn : n < 32) :
    ∃ walk : List Nat, walk[0]? = some idx ∧ walk.length ≤ fuel ∧
      spriteWalk s y fuel idx n = spritesOf s y walk ∧
      (∀ k i, walk[k]? = some i → k + 1 < walk.length →
        walk[k + 1]? = some (spriteLink (spriteEntry s i).w1) ∧ spriteLink (spriteEntry s i).w1 ≠ 0 ∧
        spriteLink (spriteEntry s i).w1 ≠ i ∧ n + (spritesOf s y (walk.take (k + 1))).length < 32) ∧
      (∀ i, walk.getLast? = some i → spriteLink (spriteEntry s i).w1 = 0 ∨ spriteLink (spriteEntry s i).w1 = i ∨
        walk.length = fuel ∨ n + (spritesOf s y walk).length = 32) := by
  induction fuel generalizing idx n with
  | zero => omega
  | succ fuel ih =>
    have hit : (if spriteMatch (spriteEntry s idx) y = true then [spriteEntry s idx] else []) =
        spritesOf s y [idx] := by
      cases h : spriteMatch (spriteEntry s idx) y <;> simp [spritesOf, h]
    have hl : (spritesOf s y [idx]).length ≤ 1 := (List.length_filter_le _ _).trans (by simp)
    have one : ∀ k i, [idx][k]? = some i → k + 1 < [idx].length → False := fun k i _ h => by simp at h
    have last : ∀ i, [idx].getLast? = some i → idx = i := fun i h => by simpa using h
    simp only [spriteWalk, hit, Config.spriteSlots]
    split
    · next h =>
      exact ⟨[idx], rfl, by simp, rfl, fun k i a b => (one k i a b).elim, fun _ _ => .inr (.inr (.inr h))⟩
    · split
      · next h =>
        refine ⟨[idx], rfl, by simp, rfl, fun k i a b => (one k i a b).elim, fun i a => ?_⟩
        rw [← last i a]
        exact h.elim .inl (fun h => .inr (.inl h))
      · next h32 hlink =>
        push Not at hlink
        rcases Nat.eq_zero_or_pos fuel with rfl | hpos
        · exact ⟨[idx], rfl, by simp, by simp [spriteWalk], fun k i a b => (one k i a b).elim,
            fun _ _ => .inr (.inr (.inl rfl))⟩
        · obtain ⟨w, h0, h1, h2, h3, h4⟩ := ih (spriteLink (spriteEntry s idx).w1)
            (n + (spritesOf s y [idx]).length) hpos (by omega)
          have cons : ∀ l, spritesOf s y (idx :: l) = spritesOf s y [idx] ++ spritesOf s y l := by
            intro l
            rw [← List.singleton_append, spritesOf, List.map_append, List.filter_append]
            rfl
          refine ⟨idx :: w, rfl, by simpa using h1, by rw [h2]; exact (cons w).symm,
            fun k i a b => ?_, fun i a => ?_⟩
          · cases k with
            | zero =>
              have : idx = i := by simpa using a
              subst this
              exact ⟨by simpa using h0, hlink.1, hlink.2, by simp; omega⟩
            | succ k =>
              obtain ⟨a1, a2, a3, a4⟩ := h3 k i (by simpa using a) (by simpa using b)
              refine ⟨by simpa using a1, a2, a3, ?_⟩
              rw [List.take_succ_cons, cons (w.take (k + 1)), List.length_append]
              omega
          · have hne : w ≠ [] := fun e => by rw [e] at h0; simp at h0
            rw [List.getLast?_cons_of_ne_nil hne] at a
            have := h4 i a
            rw [cons w, List.length_append, List.length_cons]
            omega

end Sys2Proof.Machine
end

