-- ==== Sys2Proof/Laws/PerInstr.lean ====
section
/-! SUPPORT. Statements made for each instruction as syntax, one lemma per constructor. -/

namespace Sys2Proof.Laws

/-- An instruction's encoding is as long as R300 says its opcode byte decides. -/
def EncodedLength.Statement (i : Instr) : Prop :=
  (encode i).length = instrLength i ∧ instrLength i = 1 + immediateBytes ((encode i).headD 0)

/-- No base operation 1 to 31 has an immediate (R300). -/
theorem immediateBytes_opByte (m : Mode) (base : BitVec 5) (h : base ≠ 0) : immediateBytes (opByte m base) = 0 := by
  obtain ⟨k, r, s⟩ := m
  revert k r s base
  decide

theorem EncodedLength.brk : EncodedLength.Statement .brk :=
  ⟨rfl, (by decide : 1 = 1 + immediateBytes 0)⟩
theorem EncodedLength.jci (v : Short) : EncodedLength.Statement (.jci v) :=
  ⟨rfl, (by decide : 3 = 1 + immediateBytes 0x20)⟩
theorem EncodedLength.jmi (v : Short) : EncodedLength.Statement (.jmi v) :=
  ⟨rfl, (by decide : 3 = 1 + immediateBytes 0x40)⟩
theorem EncodedLength.jsi (v : Short) : EncodedLength.Statement (.jsi v) :=
  ⟨rfl, (by decide : 3 = 1 + immediateBytes 0x60)⟩
theorem EncodedLength.lit (v : Byte) : EncodedLength.Statement (.lit v) :=
  ⟨rfl, (by decide : 2 = 1 + immediateBytes 0x80)⟩
theorem EncodedLength.lit2 (v : Short) : EncodedLength.Statement (.lit2 v) :=
  ⟨rfl, (by decide : 3 = 1 + immediateBytes 0xA0)⟩
theorem EncodedLength.litr (v : Byte) : EncodedLength.Statement (.litr v) :=
  ⟨rfl, (by decide : 2 = 1 + immediateBytes 0xC0)⟩
theorem EncodedLength.lit2r (v : Short) : EncodedLength.Statement (.lit2r v) :=
  ⟨rfl, (by decide : 3 = 1 + immediateBytes 0xE0)⟩
theorem EncodedLength.inc (m : Mode) : EncodedLength.Statement (.inc m) :=
  ⟨rfl, congrArg (1 + ·) (immediateBytes_opByte m _ (by decide)).symm⟩
theorem EncodedLength.pop (m : Mode) : EncodedLength.Statement (.pop m) :=
  ⟨rfl, congrArg (1 + ·) (immediateBytes_opByte m _ (by decide)).symm⟩
theorem EncodedLength.nip (m : Mode) : EncodedLength.Statement (.nip m) :=
  ⟨rfl, congrArg (1 + ·) (immediateBytes_opByte m _ (by decide)).symm⟩
theorem EncodedLength.swp (m : Mode) : EncodedLength.Statement (.swp m) :=
  ⟨rfl, congrArg (1 + ·) (immediateBytes_opByte m _ (by decide)).symm⟩
theorem EncodedLength.rot (m : Mode) : EncodedLength.Statement (.rot m) :=
  ⟨rfl, congrArg (1 + ·) (immediateBytes_opByte m _ (by decide)).symm⟩
theorem EncodedLength.dup (m : Mode) : EncodedLength.Statement (.dup m) :=
  ⟨rfl, congrArg (1 + ·) (immediateBytes_opByte m _ (by decide)).symm⟩
theorem EncodedLength.ovr (m : Mode) : EncodedLength.Statement (.ovr m) :=
  ⟨rfl, congrArg (1 + ·) (immediateBytes_opByte m _ (by decide)).symm⟩
theorem EncodedLength.equ (m : Mode) : EncodedLength.Statement (.equ m) :=
  ⟨rfl, congrArg (1 + ·) (immediateBytes_opByte m _ (by decide)).symm⟩
theorem EncodedLength.neq (m : Mode) : EncodedLength.Statement (.neq m) :=
  ⟨rfl, congrArg (1 + ·) (immediateBytes_opByte m _ (by decide)).symm⟩
theorem EncodedLength.gth (m : Mode) : EncodedLength.Statement (.gth m) :=
  ⟨rfl, congrArg (1 + ·) (immediateBytes_opByte m _ (by decide)).symm⟩
theorem EncodedLength.lth (m : Mode) : EncodedLength.Statement (.lth m) :=
  ⟨rfl, congrArg (1 + ·) (immediateBytes_opByte m _ (by decide)).symm⟩
theorem EncodedLength.jmp (m : Mode) : EncodedLength.Statement (.jmp m) :=
  ⟨rfl, congrArg (1 + ·) (immediateBytes_opByte m _ (by decide)).symm⟩
theorem EncodedLength.jcn (m : Mode) : EncodedLength.Statement (.jcn m) :=
  ⟨rfl, congrArg (1 + ·) (immediateBytes_opByte m _ (by decide)).symm⟩
theorem EncodedLength.jsr (m : Mode) : EncodedLength.Statement (.jsr m) :=
  ⟨rfl, congrArg (1 + ·) (immediateBytes_opByte m _ (by decide)).symm⟩
theorem EncodedLength.sth (m : Mode) : EncodedLength.Statement (.sth m) :=
  ⟨rfl, congrArg (1 + ·) (immediateBytes_opByte m _ (by decide)).symm⟩
theorem EncodedLength.ldz (m : Mode) : EncodedLength.Statement (.ldz m) :=
  ⟨rfl, congrArg (1 + ·) (immediateBytes_opByte m _ (by decide)).symm⟩
theorem EncodedLength.stz (m : Mode) : EncodedLength.Statement (.stz m) :=
  ⟨rfl, congrArg (1 + ·) (immediateBytes_opByte m _ (by decide)).symm⟩
theorem EncodedLength.ldr (m : Mode) : EncodedLength.Statement (.ldr m) :=
  ⟨rfl, congrArg (1 + ·) (immediateBytes_opByte m _ (by decide)).symm⟩
theorem EncodedLength.str (m : Mode) : EncodedLength.Statement (.str m) :=
  ⟨rfl, congrArg (1 + ·) (immediateBytes_opByte m _ (by decide)).symm⟩
theorem EncodedLength.lda (m : Mode) : EncodedLength.Statement (.lda m) :=
  ⟨rfl, congrArg (1 + ·) (immediateBytes_opByte m _ (by decide)).symm⟩
theorem EncodedLength.sta (m : Mode) : EncodedLength.Statement (.sta m) :=
  ⟨rfl, congrArg (1 + ·) (immediateBytes_opByte m _ (by decide)).symm⟩
theorem EncodedLength.dei (m : Mode) : EncodedLength.Statement (.dei m) :=
  ⟨rfl, congrArg (1 + ·) (immediateBytes_opByte m _ (by decide)).symm⟩
theorem EncodedLength.deo (m : Mode) : EncodedLength.Statement (.deo m) :=
  ⟨rfl, congrArg (1 + ·) (immediateBytes_opByte m _ (by decide)).symm⟩
theorem EncodedLength.add (m : Mode) : EncodedLength.Statement (.add m) :=
  ⟨rfl, congrArg (1 + ·) (immediateBytes_opByte m _ (by decide)).symm⟩
theorem EncodedLength.sub (m : Mode) : EncodedLength.Statement (.sub m) :=
  ⟨rfl, congrArg (1 + ·) (immediateBytes_opByte m _ (by decide)).symm⟩
theorem EncodedLength.mul (m : Mode) : EncodedLength.Statement (.mul m) :=
  ⟨rfl, congrArg (1 + ·) (immediateBytes_opByte m _ (by decide)).symm⟩
theorem EncodedLength.div (m : Mode) : EncodedLength.Statement (.div m) :=
  ⟨rfl, congrArg (1 + ·) (immediateBytes_opByte m _ (by decide)).symm⟩
theorem EncodedLength.and (m : Mode) : EncodedLength.Statement (.and m) :=
  ⟨rfl, congrArg (1 + ·) (immediateBytes_opByte m _ (by decide)).symm⟩
theorem EncodedLength.ora (m : Mode) : EncodedLength.Statement (.ora m) :=
  ⟨rfl, congrArg (1 + ·) (immediateBytes_opByte m _ (by decide)).symm⟩
theorem EncodedLength.eor (m : Mode) : EncodedLength.Statement (.eor m) :=
  ⟨rfl, congrArg (1 + ·) (immediateBytes_opByte m _ (by decide)).symm⟩
theorem EncodedLength.sft (m : Mode) : EncodedLength.Statement (.sft m) :=
  ⟨rfl, congrArg (1 + ·) (immediateBytes_opByte m _ (by decide)).symm⟩

end Sys2Proof.Laws
end

