-- ==== Sys2Proof/Tests/Slice0.lean ====
section
/-! SUPPORT. Tests: what the checks refuse, words written out from 30_encoding.md, single steps from
95_test_vectors.md, and for each statement with hypotheses a state and operands that meet them. -/

open Sys2Proof Sys2Proof.Machine

namespace Sys2Proof.Tests

/-! ### Helpers -/

/-- A stack that holds these bytes, the first deepest. -/
def stk (l : List Byte) : Stack := l.foldl Stack.push1 Stack.reset

/-- A stack holds exactly these bytes from slot 0. -/
def holds (x : Stack) (l : List Byte) : Bool := x.ptr == BitVec.ofNat 8 l.length && x.dat.cells.take l.length == l

/-- An invocation about to execute `code` at `a`, with these stacks, and all else as at startup. -/
def ready (a : Short) (code w r : List Byte) : State :=
  { State.reset with mem := bulkLoad [] a.toNat code, wst := stk w, rst := stk r, pc := a, phase := .run }

/-- The state after one step, or the startup state where the step stops. -/
def ran (s : State) : State :=
  match step s with
  | .next t => t
  | _ => State.reset

/-- One instruction at 0x0200 takes this working stack to that one and goes to 0x0201. -/
def takes (op : Byte) (w w' : List Byte) : Bool :=
  let t := ran (ready 0x0200 [op] w [])
  holds t.wst w' && t.pc == 0x0201 && holds t.rst []

/-- External handlers at these ports. -/
def withExt (s : State) (reads writes : List Byte) : State :=
  { s with params := { s.params with extReadPorts := reads, extWritePorts := writes } }

/-- Another RUN_OFF. -/
def withRunOff (s : State) (r : RunOff) : State := { s with params := { s.params with runOff := r } }

/-- The startup state with a command pending and an operand at the port pair. -/
def pending (cmd : Short) (hi lo : Byte) : State :=
  (State.reset.setVr 0 cmd).setDev ((State.reset.dev.wr 0x20 hi).wr 0x21 lo)

/-- The startup state with the renderer before a step of a frame and this MODE. -/
def frameAt (pt : RenderPoint) (mode : Short) : State := (State.reset.setVr 1 mode).setPhase (.render pt)

/-- VRAM of these words. -/
def words (l : List (Nat × Short)) : Memory := l.foldl (fun m c => memWrite m true (BitVec.ofNat 16 c.1) c.2) []

/-- The test scene of 95_test_vectors.md section 2.8: pcache[i] shows i, planes at 0x1000 and 0x2000,
sprites at 0x3000, row 0 of pattern 1 is 1 2 3 4 5 6 7 8, and these further words. -/
def scene (mode : Short) (l : List (Nat × Short)) : State :=
  let s := ((State.reset.setVr 10 0x1000).setVr 11 0x2000).setVr 9 0x3000
  { s.setVr 1 mode with
    pcache := ⟨(List.range 64).map (fun i => BitVec.ofNat 32 (0x01010100 * i + 0xFF)), by decide⟩
    vram := words ([(32, 0x1234), (34, 0x5678)] ++ l) }

/-! ### What the checks refuse -/

theorem test_params_default_wellFormed : Params.spec.wellFormed = true := by decide

theorem test_params_vdp_port_top_refused : { Params.spec with vdpPort := 0xFF }.vdpPortOk = false := by decide

theorem test_params_vdp_port_top_ill_formed : { Params.spec with vdpPort := 0xFF }.wellFormed = false := by decide

theorem test_params_read_port_on_pair_refused :
    { Params.spec with extReadPorts := [0x10, 0x20] }.wellFormed = false := by decide

theorem test_params_write_port_on_pair_refused :
    { Params.spec with extWritePorts := [0x21] }.wellFormed = false := by decide

theorem test_params_ports_beside_pair_accepted :
    { Params.spec with extReadPorts := [0x1F, 0x22], extWritePorts := [0xFF] }.wellFormed = true := by decide

theorem test_every_instr_wellFormed : (Instr.jci 0xFFFF).wellFormed = true := by decide

theorem test_render_buffer_out_of_range_refused : (HostCall.render [(71680, 1)]).wellFormed = false := by decide

theorem test_render_buffer_unsorted_refused : (HostCall.render [(5, 1), (4, 1)]).wellFormed = false := by decide

theorem test_memory_listed_zero_refused : Memory.wf [(3, 0)] = false := by decide

theorem test_memory_beyond_space_refused : Memory.wf [(65536, 1)] = false := by decide

theorem test_write_keeps_form :
    Store.write (Store.write (Store.write ([] : Memory) 9 1) 4 2) 9 0 = [(4, 2)] := by decide

/-! ### Decoding: words from 30_encoding.md R300 to R308 -/

theorem test_decode_brk : decodeTableWord 8 0x00 = some .brk := by decide

theorem test_decode_jci : decodeTableWord 24 0x341220 = some (.jci 0x1234) := by decide

theorem test_decode_jmi : decodeTableWord 24 0xFDFF40 = some (.jmi 0xFFFD) := by decide

theorem test_decode_jsi : decodeTableWord 24 0x050060 = some (.jsi 0x0005) := by decide

theorem test_decode_lit : decodeTableWord 16 0x4280 = some (.lit 0x42) := by decide

theorem test_decode_lit2 : decodeTableWord 24 0x3412A0 = some (.lit2 0x1234) := by decide

theorem test_decode_litr : decodeTableWord 16 0x42C0 = some (.litr 0x42) := by decide

theorem test_decode_lit2r : decodeTableWord 24 0x3412E0 = some (.lit2r 0x1234) := by decide

theorem test_decode_inc : decodeTableWord 8 0x01 = some (.inc ⟨false, false, false⟩) := by decide

theorem test_decode_pop : decodeTableWord 8 0x22 = some (.pop ⟨false, false, true⟩) := by decide

theorem test_decode_nip : decodeTableWord 8 0x43 = some (.nip ⟨false, true, false⟩) := by decide

theorem test_decode_swp : decodeTableWord 8 0x84 = some (.swp ⟨true, false, false⟩) := by decide

theorem test_decode_rot : decodeTableWord 8 0x65 = some (.rot ⟨false, true, true⟩) := by decide

theorem test_decode_dup : decodeTableWord 8 0xC6 = some (.dup ⟨true, true, false⟩) := by decide

theorem test_decode_ovr : decodeTableWord 8 0xA7 = some (.ovr ⟨true, false, true⟩) := by decide

theorem test_decode_equ : decodeTableWord 8 0xE8 = some (.equ ⟨true, true, true⟩) := by decide

theorem test_decode_neq : decodeTableWord 8 0x09 = some (.neq ⟨false, false, false⟩) := by decide

theorem test_decode_gth : decodeTableWord 8 0x2A = some (.gth ⟨false, false, true⟩) := by decide

theorem test_decode_lth : decodeTableWord 8 0x8B = some (.lth ⟨true, false, false⟩) := by decide

theorem test_decode_jmp : decodeTableWord 8 0x6C = some (.jmp ⟨false, true, true⟩) := by decide

theorem test_decode_jcn : decodeTableWord 8 0x0D = some (.jcn ⟨false, false, false⟩) := by decide

theorem test_decode_jsr : decodeTableWord 8 0x4E = some (.jsr ⟨false, true, false⟩) := by decide

theorem test_decode_sth : decodeTableWord 8 0xEF = some (.sth ⟨true, true, true⟩) := by decide

theorem test_decode_ldz : decodeTableWord 8 0x30 = some (.ldz ⟨false, false, true⟩) := by decide

theorem test_decode_stz : decodeTableWord 8 0x11 = some (.stz ⟨false, false, false⟩) := by decide

theorem test_decode_ldr : decodeTableWord 8 0x92 = some (.ldr ⟨true, false, false⟩) := by decide

theorem test_decode_str : decodeTableWord 8 0x53 = some (.str ⟨false, true, false⟩) := by decide

theorem test_decode_lda : decodeTableWord 8 0xB4 = some (.lda ⟨true, false, true⟩) := by decide

theorem test_decode_sta : decodeTableWord 8 0x15 = some (.sta ⟨false, false, false⟩) := by decide

theorem test_decode_dei : decodeTableWord 8 0x36 = some (.dei ⟨false, false, true⟩) := by decide

theorem test_decode_deo : decodeTableWord 8 0x57 = some (.deo ⟨false, true, false⟩) := by decide

theorem test_decode_add : decodeTableWord 8 0xB8 = some (.add ⟨true, false, true⟩) := by decide

theorem test_decode_sub : decodeTableWord 8 0x19 = some (.sub ⟨false, false, false⟩) := by decide

theorem test_decode_mul : decodeTableWord 8 0x3A = some (.mul ⟨false, false, true⟩) := by decide

theorem test_decode_div : decodeTableWord 8 0x9B = some (.div ⟨true, false, false⟩) := by decide

theorem test_decode_and : decodeTableWord 8 0x5C = some (.and ⟨false, true, false⟩) := by decide

theorem test_decode_ora : decodeTableWord 8 0x7D = some (.ora ⟨false, true, true⟩) := by decide

theorem test_decode_eor : decodeTableWord 8 0xDE = some (.eor ⟨true, true, false⟩) := by decide

theorem test_decode_sft : decodeTableWord 8 0xFF = some (.sft ⟨true, true, true⟩) := by decide

/-- OpcodeMapWords: in every mode the first and the last number of the map have an opcode byte. -/
theorem witness_opcode_numbers :
    (0x01 : Byte).extractLsb' 0 5 = 0x01 ∧ (0xE1 : Byte).extractLsb' 0 5 = 0x01 ∧
    (0x1F : Byte).extractLsb' 0 5 = 0x1F ∧ (0xFF : Byte).extractLsb' 0 5 = 0x1F := by decide

theorem test_decode_truncated_refused : decode [0xA0, 0x12] = .error (.truncated 3) := by decide

theorem test_decode_empty_refused : decode [] = .error .noOpcode := by decide

theorem test_encode_immediate_high_byte_first : encode (.lit2 0x1234) = [0xA0, 0x12, 0x34] := by decide

/-! ### Single steps: expected values from 95_test_vectors.md -/

theorem test_brk_halts :
    let t := ran (ready 0x0000 [0x00] [] [])
    t.lastResult = some .halted ∧ t.phase = .idle ∧ holds t.wst [] = true := by decide

theorem test_jci_taken :
    let t := ran (ready 0x0100 [0x20, 0x00, 0x10] [0x01] [])
    t.pc = 0x0111 ∧ holds t.wst [] = true := by decide

theorem test_jci_not_taken_on_empty_stack :
    let t := ran (ready 0x0100 [0x20, 0x00, 0x10] [] [])
    t.pc = 0x0103 ∧ t.wst.ptr = 255 := by decide

theorem test_jmi_backwards : (ran (ready 0x0100 [0x40, 0xFF, 0xFD] [] [])).pc = 0x00FE := by decide

theorem test_jsi_pushes_return :
    let t := ran (ready 0x0100 [0x60, 0x00, 0x05] [] [])
    holds t.rst [0x01, 0x03] = true ∧ t.pc = 0x0106 := by decide

theorem test_lit :
    let t := ran (ready 0x0100 [0x80, 0x07] [] [])
    holds t.wst [0x07] = true ∧ t.pc = 0x0102 := by decide

theorem test_lit2 :
    let t := ran (ready 0x0100 [0xA0, 0x12, 0x34] [] [])
    holds t.wst [0x12, 0x34] = true ∧ t.pc = 0x0103 := by decide

theorem test_litr :
    let t := ran (ready 0x0200 [0xC0, 0x42] [] [])
    holds t.rst [0x42] = true ∧ t.pc = 0x0202 := by decide

theorem test_lit2r :
    let t := ran (ready 0x0200 [0xE0, 0x12, 0x34] [] [])
    holds t.rst [0x12, 0x34] = true ∧ t.pc = 0x0203 := by decide

theorem test_inc2_wraps : takes 0x21 [0xFF, 0xFF] [0x00, 0x00] = true := by decide

theorem test_inc2k_keeps : takes 0xA1 [0x12, 0xFF] [0x12, 0xFF, 0x13, 0x00] = true := by decide

theorem test_add_wraps : takes 0x18 [0x80, 0x90] [0x10] = true := by decide

theorem test_add2_carries : takes 0x38 [0x12, 0x34, 0xED, 0xCC] [0x00, 0x00] = true := by decide

theorem test_sub_borrows : takes 0x19 [0x01, 0x02] [0xFF] = true := by decide

theorem test_sub2k : takes 0xB9 [0x10, 0x00, 0x00, 0x01] [0x10, 0x00, 0x00, 0x01, 0x0F, 0xFF] = true := by decide

theorem test_mul2 : takes 0x3A [0x00, 0xFF, 0x00, 0xFF] [0xFE, 0x01] = true := by decide

theorem test_div_unsigned : takes 0x1B [0x80, 0xFF] [0x00] = true := by decide

theorem test_div2_by_zero : takes 0x3B [0x12, 0x34, 0x00, 0x00] [0x00, 0x00] = true := by decide

theorem test_and : takes 0x1C [0xF0, 0x3C] [0x30] = true := by decide

theorem test_ora : takes 0x1D [0xF0, 0x0F] [0xFF] = true := by decide

theorem test_eor : takes 0x1E [0xFF, 0x0F] [0xF0] = true := by decide

theorem test_sft_both_ways : takes 0x1F [0x34, 0x33] [0x30] = true := by decide

theorem test_sft2 : takes 0x3F [0x12, 0x34, 0x48] [0x01, 0x20] = true := by decide

theorem test_equ2 : takes 0x28 [0x12, 0x34, 0x12, 0x35] [0x00] = true := by decide

theorem test_neq : takes 0x09 [0x12, 0x13] [0x01] = true := by decide

theorem test_gth_unsigned : takes 0x0A [0x80, 0x7F] [0x01] = true := by decide

theorem test_lthk : takes 0x8B [0x02, 0x03] [0x02, 0x03, 0x01] = true := by decide

theorem test_pop2 : takes 0x22 [0x01, 0x02, 0x03] [0x01] = true := by decide

theorem test_nip2k : takes 0xA3 [0x01, 0x02, 0x03, 0x04] [0x01, 0x02, 0x03, 0x04, 0x03, 0x04] = true := by decide

theorem test_swp2 : takes 0x24 [0x12, 0x34, 0x56, 0x78] [0x56, 0x78, 0x12, 0x34] = true := by decide

theorem test_rot2 : takes 0x25 [0x01, 0x02, 0x03, 0x04, 0x05, 0x06] [0x03, 0x04, 0x05, 0x06, 0x01, 0x02] = true := by
  decide

theorem test_dup2 : takes 0x26 [0x12, 0x34] [0x12, 0x34, 0x12, 0x34] = true := by decide

theorem test_dupkr :
    let t := ran (ready 0x0200 [0xC6] [0x09] [0x07])
    holds t.rst [0x07, 0x07, 0x07] = true ∧ holds t.wst [0x09] = true := by decide

theorem test_ovrk : takes 0x87 [0x01, 0x02] [0x01, 0x02, 0x01, 0x02, 0x01] = true := by decide

theorem test_jmp_wraps_down : (ran (ready 0x0010 [0x0C] [0x80] [])).pc = 0xFF91 := by decide

theorem test_jmp2r_pops_stale :
    let t := ran (ready 0x0200 [0x6C] [] [])
    t.pc = 0x0000 ∧ t.rst.ptr = 254 := by decide

theorem test_jcn_taken : (ran (ready 0x0110 [0x0D] [0x01, 0xF1] [])).pc = 0x0102 := by decide

theorem test_jcn2k_not_taken :
    let t := ran (ready 0x0200 [0xAD] [0x00, 0x12, 0x34] [])
    t.pc = 0x0201 ∧ holds t.wst [0x00, 0x12, 0x34] = true := by decide

theorem test_jsr2k :
    let t := ran (ready 0x0300 [0xAE] [0x12, 0x34] [])
    t.pc = 0x1234 ∧ holds t.wst [0x12, 0x34] = true ∧ holds t.rst [0x03, 0x01] = true := by decide

theorem test_jsrr :
    let t := ran (ready 0x0300 [0x4E] [] [0x03])
    t.pc = 0x0304 ∧ holds t.wst [0x03, 0x01] = true ∧ holds t.rst [] = true := by decide

theorem test_sthk :
    let t := ran (ready 0x0200 [0x8F] [0x05] [])
    holds t.wst [0x05] = true ∧ holds t.rst [0x05] = true := by decide

theorem test_sth2r :
    let t := ran (ready 0x0200 [0x6F] [] [0xAB, 0xCD])
    holds t.wst [0xAB, 0xCD] = true ∧ holds t.rst [] = true := by decide

theorem test_ldz2_wraps :
    let s := ready 0x0200 [0x30] [0xFF] []
    holds (ran (s.setMem (zpWrite s.mem true 0xFF 0x1234))).wst [0x12, 0x34] = true := by decide

theorem test_stz2_wraps :
    let t := ran (ready 0x0200 [0x31] [0xAB, 0xCD, 0xFF] [])
    t.mem.read 0xFF = 0xAB ∧ t.mem.read 0x00 = 0xCD ∧ t.mem.read 0x100 = 0 := by decide

theorem test_ldr_own_opcode : takes 0x12 [0xFF] [0x12] = true := by decide

theorem test_str2_overwrites_itself :
    let t := ran (ready 0x0200 [0x33] [0x12, 0x34, 0xFF] [])
    t.mem.read 0x200 = 0x12 ∧ t.mem.read 0x201 = 0x34 := by decide

theorem test_lda2 :
    let s := ready 0x0200 [0x34] [0x12, 0x34] []
    holds (ran (s.setMem (memWrite s.mem true 0x1234 0x5678))).wst [0x56, 0x78] = true := by decide

theorem test_sta2_wraps :
    let t := ran (ready 0x0200 [0x35] [0xBE, 0xEF, 0xFF, 0xFF] [])
    t.mem.read 0xFFFF = 0xBE ∧ t.mem.read 0x0000 = 0xEF := by decide

theorem test_dei2_port_wraps :
    let s := ready 0x0200 [0x36] [0xFF] []
    holds (ran (s.setDev ((s.dev.wr 0xFF 0x12).wr 0x00 0x34))).wst [0x12, 0x34] = true := by decide

theorem test_dei_reads_vdp :
    let s := (ready 0x0200 [0x16] [0x20] []).setVr 0 0x0400
    let t := ran (s.setVr 4 0xBEEF)
    holds t.wst [0xBE] = true ∧ t.dev.rd 0x21 = 0xEF ∧ t.vr 0 = 0 := by decide

theorem test_deok :
    let t := ran (ready 0x0200 [0x97] [0x55, 0x10] [])
    t.dev.rd 0x10 = 0x55 ∧ holds t.wst [0x55, 0x10] = true := by decide

theorem test_deo2_latches_vdp :
    let t := ran (ready 0x0200 [0x37] [0x04, 0x01, 0x20] [])
    t.vr 0 = 0x0401 ∧ t.vr 1 = 0 ∧ holds t.wst [] = true := by decide

/-- V2 of 95_test_vectors.md. -/
theorem test_vdp_wr_reg_lo :
    let t := vdpWrite (pending 0x0401 0x00 0xFF)
    t.vr 4 = 0x00FF ∧ t.vr 0 = 0 ∧ t.vr 1 = 0x1000 := by decide

/-- V6: the dirty bit lands on top of a MODE just written. -/
theorem test_vdp_wr_mode : (vdpWrite (pending 0x0103 0x00 0x05)).vr 1 = 0x1005 := by decide

/-- V9. -/
theorem test_vdp_wr_pal_hi : (vdpWrite (pending 0x0206 0x00 0x0F)).cram.rd 2 = 0x0F00 := by decide

/-- V16: the pattern is high byte first and restarts with the fill. -/
theorem test_vdp_fill_pattern :
    let t := vdpWrite (((pending 0x320C 0x00 0x03).setVr 2 0x0100).setVr 3 0xABCD)
    (List.range 4).map (fun i => t.vram.read (0x100 + i)) = [0xAB, 0xCD, 0xAB, 0x00] := by decide

/-- V13: main memory to VRAM. -/
theorem test_vdp_copy_vram :
    let s := (pending 0x320A 0x00 0x04).setVr 2 0x0300
    let t := vdpWrite (s.setMem (bulkLoad [] 0x300 [0x11, 0x22, 0x33, 0x44]))
    (List.range 5).map t.vram.read = [0x11, 0x22, 0x33, 0x44, 0x00] := by decide

/-- RV1, RV4, RV5 and RV11. -/
theorem test_plane_pixels :
    pixel (scene 0 [(0x1000, 0x0001)]) 7 0 = 0x080808FF ∧
    pixel (scene 0 [(0x1000, 0x2001)]) 0 0 = 0x111111FF ∧
    pixel ((scene 0 [(0x1000, 0x0001)]).setVr 12 1) 0 0 = 0x020202FF ∧
    pixel (scene 0x0020 []) 0 0 = 0x202020FF := by decide

/-- RV12: a sprite of row 20. -/
theorem test_sprite_pixels :
    let s := buildSpriteCache 20 (scene 0 [(0x3000, 0x4001), (0x3004, 10), (0x3006, 20)])
    pixel s 10 20 = 0x212121FF ∧ pixel s 17 20 = 0x282828FF ∧ pixel s 18 20 = 0x000000FF := by decide

/-- RV27: text over everything. -/
theorem test_text_pixels :
    let s := ((scene 0x0014 [(0x8000, 0x0100)]).setVr 8 0x8000).setCgram [(8, 0xAA)]
    pixel s 0 0 = 0xEFEFEFFF ∧ pixel s 1 0 = 0x101010FF := by decide

/-- RV31. -/
theorem test_rgba : rgba 0x0F80 = 0xFF8800FF ∧ rgba 0x0000 = 0x000000FF := by decide

/-! ### Hypotheses met: the step -/

/-- EncodeOfDecode. -/
theorem witness_encodeOfDecode : decode [0x20, 0x12, 0x34, 0x99] = .ok (.jci 0x1234, [0x99]) := by decide

/-- EveryOpcodeByteIsAnInstruction: each length, and one byte too few. -/
theorem witness_everyOpcode_lengths :
    decode [0x40, 0x00, 0x01] = .ok (.jmi 1, []) ∧ decode [0x80, 0x07] = .ok (.lit 7, []) ∧
    decode [0x01] = .ok (.inc ⟨false, false, false⟩, []) ∧ decode [0x40, 0x00] = .error (.truncated 3) ∧
    decode [0x80] = .error (.truncated 2) := by decide

/-- What StepRunsDecodedInstruction asks of a state. -/
def fetches (s : State) (i : Instr) : Bool :=
  s.phase == .run && i.wellFormed &&
    (match decode [s.mem.read s.pc.toNat, s.mem.read (s.pc + 1).toNat, s.mem.read (s.pc + 2).toNat] with
      | .ok (j, _) => j == i
      | .error _ => false)

/-- StepRunsDecodedInstruction: BRK at the last address. -/
theorem witness_stepRuns_brk_at_end :
    fetches (ready 0xFFFF [0x00] [] []) .brk = true ∧
    step (ready 0xFFFF [0x00] [] []) = exec .brk (ready 0xFFFF [0x00] [] []) := ⟨by decide, rfl⟩

/-- StepRunsDecodedInstruction: the bytes end at the last address. -/
theorem witness_stepRuns_before_end :
    let s := ready 0xFFFC [0xA0, 0x12, 0x34] [] []
    fetches s (.lit2 0x1234) = true ∧ s.pc.toNat + instrLength (.lit2 0x1234) = 65535 := by decide

/-- StepRunsDecodedInstruction: the bytes wrap, RUN_OFF never holds. -/
theorem witness_stepRuns_wraps_never :
    let s := withRunOff (ready 0xFFFF [0x06] [0x09] []) .never
    let i : Instr := .dup ⟨false, false, false⟩
    fetches s i = true ∧ i ≠ .brk ∧ s.pc.toNat + instrLength i = 65536 ∧ s.params.runOff = .never ∧
    (ran s).pc = 0 ∧ (ran s).phase = .run := by decide

/-- StepRunsDecodedInstruction: an immediate wraps, RUN_OFF always holds then. -/
theorem witness_stepRuns_wraps_always :
    let s := withRunOff (ready 0xFFFE [0xA0, 0x12, 0x34] [] []) .alwaysAtWrap
    fetches s (.lit2 0x1234) = true ∧ 65535 < s.pc.toNat + instrLength (.lit2 0x1234) ∧
    s.params.runOff = .alwaysAtWrap ∧ (ran s).lastResult = some .ranOff ∧ (ran s).phase = .idle := by decide

/-- StepRunsDecodedInstruction: the default RUN_OFF. -/
theorem witness_stepRuns_wraps_may :
    let s := ready 0xFFFF [0x06] [0x09] []
    let i : Instr := .dup ⟨false, false, false⟩
    fetches s i = true ∧ 65535 < s.pc.toNat + instrLength i ∧ s.params.runOff = .mayAtWrap ∧
    ∃ t, exec i s = .next t ∧ ∀ h, t.phase ≠ .handler h :=
  ⟨by decide, by decide, rfl, _, rfl, fun _ => nofun⟩

/-- StepRunsDecodedInstruction: the bytes wrap and an external handler is called. -/
theorem witness_stepRuns_wraps_with_handler :
    let s := withExt (ready 0xFFFF [0x17] [0x55, 0x10] []) [] [0x10]
    fetches s (.deo ⟨false, false, false⟩) = true ∧
    (ran s).phase = .handler ⟨0x10, .writeDone, true⟩ := by decide

/-- EveryStepAnswersNext. -/
theorem witness_everyStep : State.reset.params.maxNest = none ∧ step State.reset = .next State.reset := ⟨rfl, rfl⟩

theorem not_handler (t : State) (p : Phase) (e : t.phase = p) (hp : ∀ h, p ≠ .handler h) : ∀ h, t.phase ≠ .handler h :=
  fun h => e ▸ hp h

/-- StackPointerLaw at the edge of the stack: the pointer wraps from 0xFF to 0x01. -/
theorem witness_stackPointerLaw :
    let s := { ready 0x0200 [] [] [] with wst := ⟨Regs.all _ 0, 0xFF⟩ }
    ∃ t, exec (.lit2 0x1234) s = .next t ∧ (∀ h, t.phase ≠ .handler h) ∧ t.wst.ptr = 1 :=
  ⟨_, rfl, not_handler _ .run rfl (fun _ => nofun), rfl⟩

/-- StackPointerLaw: DEO on a plain port, and BRK under a renderer. -/
theorem witness_stackPointerLaw_device_and_brk :
    (∃ t, exec (.deo ⟨true, true, true⟩) (ready 0x0200 [] [] [0x12, 0x34, 0x10]) = .next t ∧
      ∀ h, t.phase ≠ .handler h) ∧
    ∃ t, exec .brk { ready 0x0200 [] [] [] with callers := [.render .skipTest] } = .next t ∧
      ∀ h, t.phase ≠ .handler h :=
  ⟨⟨_, rfl, not_handler _ .run rfl (fun _ => nofun)⟩,
    ⟨_, rfl, not_handler _ (.render .skipTest) rfl (fun _ => nofun)⟩⟩

/-- KeepModeLeavesOperands: INCk, ROT2k, SUBkr and SFTk: the lowest, two middle and the highest base operation complete with k = 1. -/
theorem witness_keepMode :
    ∀ op ∈ ([0x81, 0xA5, 0xD9, 0x9F] : List Byte), op.getLsbD 7 = true ∧ op.extractLsb' 0 5 ≠ 0 ∧
      (∃ t, exec (decodeOp op 0 0) (ready 0x0200 [] [1, 2, 3] [4, 5]) = .next t) ∧
      ∃ u, exec (decodeOp (op &&& 0x7F) 0 0) (ready 0x0200 [] [1, 2, 3] [4, 5]) = .next u := by
  intro op h
  fin_cases h <;> exact ⟨by decide, by decide, ⟨_, rfl⟩, ⟨_, rfl⟩⟩

/-- KeepModeLeavesOperands: DEI2k that waits for an external handler. -/
theorem witness_keepMode_device :
    let s := withExt (ready 0x0200 [] [0x10] []) [0x10] []
    (∃ t, exec (decodeOp 0xB6 0 0) s = .next t ∧ t.phase = .handler ⟨0x10, .readHi false 0x11, false⟩) ∧
    ∃ u, exec (decodeOp (0xB6 &&& 0x7F) 0 0) s = .next u := ⟨⟨_, rfl, rfl⟩, ⟨_, rfl⟩⟩

/-- NipRemovesSecond, DupDuplicatesTop and StashMovesTop: opcode bytes with every mode bit or some. -/
theorem witness_base_operations :
    (0xE3 : Byte).extractLsb' 0 5 = 0x03 ∧ (0xC6 : Byte).extractLsb' 0 5 = 0x06 ∧
    (0x6F : Byte).extractLsb' 0 5 = 0x0F := by decide

/-! ### Hypotheses met: control -/

/-- JumpsAndCalls: a condition of one and of zero, in short mode. -/
theorem witness_jcn_taken_and_not :
    let m : Mode := ⟨false, false, true⟩
    ((ready 0 [] [0x01, 0x12, 0x34] []).stack m.ret).word false (width m.short) ≠ 0 ∧
    ((ready 0 [] [0x00, 0x12, 0x34] []).stack m.ret).word false (width m.short) = 0 := by decide

/-- ImmediateJumps: a non-zero condition, zero, and the stale byte of an empty stack. -/
theorem witness_jci_taken_and_not :
    (ready 0 [] [0xFF] []).wst.word false 0 ≠ 0 ∧ (ready 0 [] [0x00] []).wst.word false 0 = 0 ∧
    (ready 0 [] [] []).wst.word false 0 = 0 := by decide

/-- BrkReturnsToCaller and InvocationEndsForItsCaller: the host, the renderer, an external handler. -/
theorem witness_brk_callers :
    (ready 0 [] [] []).callers = [] ∧
    { ready 0 [] [] [] with callers := [.render .skipTest] }.callers = .render .skipTest :: [] ∧
    { ready 0 [] [] [] with callers := [.handler ⟨0x10, .writeDone, false⟩ 0x0103, .render .skipTest] }.callers =
      .handler ⟨0x10, .writeDone, false⟩ 0x0103 :: [.render .skipTest] := ⟨rfl, rfl, rfl⟩

/-- InvocationEndsForItsCaller, used where StepRunsDecodedInstruction names it: INC at 0xFFFF under
alwaysAtWrap, called by a handler, gives result 1 and that handler its program counter again. -/
theorem witness_runOff_returns_to_caller :
    let s := withRunOff (ready 0xFFFF [0x01] [0x07] []) .alwaysAtWrap
    let t := ran { s with callers := [.handler ⟨0x10, .writeDone, false⟩ 0x0103, .render .skipTest] }
    t.lastResult = some .ranOff ∧ t.pc = 0x0103 ∧ t.callers = [.render .skipTest] ∧ holds t.wst [0x08] = true ∧
    t.phase = .handler ⟨0x10, .writeDone, false⟩ := by decide

/-! ### Hypotheses met: the bus -/

/-- BusAccess and the other statements about ports: the ports of R707 and R710 at their edges. -/
theorem witness_port_kinds :
    let c := { Params.spec with extReadPorts := [0x1F, 0xFF], extWritePorts := [0x22, 0x00] }
    PlainRead c 0x21 ∧ PlainWrite c 0x20 ∧ ExtRead c 0xFF ∧ ExtRead c 0x1F ∧ ExtWrite c 0x00 ∧ ExtWrite c 0x22 ∧
    PlainRead c 0x00 ∧ PlainWrite c 0xFF ∧ ¬ ExtRead c 0x20 ∧ ¬ ExtWrite c 0x21 ∧ (0x20 : Byte) = c.vdpPort ∧
    (0x21 : Byte) = c.vdpPort + 1 := by
  simp only [PlainRead, PlainWrite, ExtRead, ExtWrite]
  decide

/-- PlainPortsAreStorage and DeviceInstructionsAccessBus: a short access at port 0xFF goes on at port 0x00. -/
theorem witness_plain_ports_wrap :
    let s := ready 0x0200 [] [0x12, 0x34, 0xFF] []
    let p := (s.stack false).under 0
    p = 0xFF ∧ PlainRead s.params p ∧ PlainRead s.params (p + 1) ∧ PlainWrite s.params p ∧
    PlainWrite s.params (p + 1) ∧ ¬ ExtRead s.params p ∧ ¬ ExtRead s.params (p + 1) ∧ ¬ ExtWrite s.params p ∧
    ¬ ExtWrite s.params (p + 1) := by
  simp only [PlainRead, PlainWrite, ExtRead, ExtWrite]
  decide

/-- DeiReadsVdp. -/
theorem witness_deiReadsVdp :
    let s := ready 0x0200 [] [0x20] []
    (s.stack false).under 0 = s.params.vdpPort ∧ s.params.vdpPort + 1 ∉ s.params.extReadPorts := by decide

/-- DeoDrivesVdp: the byte and the short form. -/
theorem witness_deoDrivesVdp :
    let s := ready 0x0200 [] [0x01, 0x21] []
    let s2 := ready 0x0200 [] [0x04, 0x01, 0x20] []
    (s.stack false).under 0 = s.params.vdpPort + 1 ∧ (s2.stack false).under 0 = s2.params.vdpPort ∧
    s2.params.vdpPort ∉ s2.params.extWritePorts := by decide

/-- The four cases of ExternalPortsCallHandlers, the short ones at the port wrap. -/
theorem witness_externalPorts :
    let s := withExt (ready 0x0200 [] [0x12, 0x34, 0xFF] []) [0xFF] [0xFF]
    let s2 := withExt (ready 0x0200 [] [0x12, 0x34, 0xFF] []) [0x00] [0x00]
    let p := (s.stack false).under 0
    p = 0xFF ∧ (s2.stack false).under 0 = 0xFF ∧ ExtRead s.params p ∧ ExtWrite s.params p ∧
    ¬ ExtRead s2.params p ∧ ExtRead s2.params (p + 1) ∧ ¬ ExtWrite s2.params p ∧ ExtWrite s2.params (p + 1) := by
  simp only [ExtRead, ExtWrite]
  decide

/-- ResumedInstruction: the next port has an external read handler or not, and is plain, the VDP's or an
external device's for a write. -/
theorem witness_resumedInstruction :
    let c := (withExt State.reset [0x00] [0x22]).params
    ExtRead c 0x00 ∧ ¬ ExtRead c 0x20 ∧ PlainWrite c 0x00 ∧ (0x21 : Byte) = c.vdpPort + 1 ∧ ExtWrite c 0x22 := by
  simp only [PlainWrite, ExtRead, ExtWrite]
  decide

/-- ResumedInstruction and R408: the push goes where the handler left the pointer. -/
theorem test_resume_pushes_at_pointer_left :
    let s := ready 0x0201 [] [0x01, 0x02, 0x03] []
    holds (resumeInstr (.readLo false 0x12) 0x34 s).wst [0x01, 0x02, 0x03, 0x12, 0x34] = true ∧
    (resumeInstr (.readByte true) 0xAB { s with rst := ⟨s.rst.dat, 0xFF⟩ }).rst.ptr = 0 ∧
    (resumeInstr (.writeNext 0x00 0x34) 0x99 s).dev.rd 0x00 = 0x34 := by decide

/-! ### Hypotheses met: the VDP -/

/-- LatchPhase. -/
theorem witness_latchPhase : State.reset.vr 0 = 0 := by decide

/-- RegisterSelectors, PaletteSelectors, VramSelectors and CopyCgram: a pending command of every write
selector but 0; the reserved ones at both ends of their range. -/
theorem witness_write_selectors :
    ∀ sel ∈ [1, 2, 3, 4, 5, 6, 7, 8, 9, 10, 11, 12, 13, 14, 31],
      (pending (BitVec.ofNat 16 sel) 0 0).vr 0 ≠ 0 ∧
      (((pending (BitVec.ofNat 16 sel) 0 0).vr 0).extractLsb' 0 5).toNat = sel := by decide

/-- RegisterSelectors: selector 0 is pending when a bit above it is set. -/
theorem witness_write_selector_zero :
    (pending 0x0400 0 0).vr 0 ≠ 0 ∧ (((pending 0x0400 0 0).vr 0).extractLsb' 0 5).toNat = 0 := by decide

/-- ReadSelectors: each clause, the last at both ends of its range. -/
theorem witness_read_selectors :
    ∀ sel ∈ [0, 1, 2, 3, 15], (((pending (BitVec.ofNat 16 sel) 0 0).vr 0).extractLsb' 0 4).toNat = sel := by decide

/-! ### Hypotheses met: the renderer -/

/-- VerticalBlank: enabled and not. -/
theorem witness_verticalBlank :
    (frameAt .vblank 1).phase = .render .vblank ∧ ((frameAt .vblank 1).vr 1).getLsbD 0 = true ∧
    ((frameAt .vblank 0).vr 1).getLsbD 0 = false := by decide

/-- WholeFrameSkip: no dirty bit but every other MODE bit set, and the lowest dirty bit. -/
theorem witness_wholeFrameSkip :
    (frameAt .skipTest 0x0FFF).phase = .render .skipTest ∧
    ((frameAt .skipTest 0x0FFF).vr 1).extractLsb' 12 4 = 0 ∧
    ((frameAt .skipTest 0x1000).vr 1).extractLsb' 12 4 ≠ 0 := by decide

/-- HorizontalBlank: on the last row's line, off it, and disabled. -/
theorem witness_horizontalBlank :
    let s := (frameAt (.rowStart 223) 2).setVr 7 223
    s.phase = .render (.rowStart 223) ∧ (s.vr 1).getLsbD 1 = true ∧ (s.vr 7).toNat = (223 : Fin 224).val ∧
    ((frameAt (.rowStart 223) 2).vr 7).toNat ≠ (223 : Fin 224).val ∧
    ((frameAt (.rowStart 0) 0).vr 1).getLsbD 1 = false := by decide

/-- SpriteRowCache: a row with one sprite found, and the sentinel in its slot on a row with none. -/
theorem witness_spriteRowCache :
    (spriteWalk (scene 0 [(0x3000, 0x4001), (0x3004, 10), (0x3006, 20)]) 20 320 0 0).length = 1 ∧
    (spriteWalk (scene 0 []) 20 2 0 0).length = 0 := by decide

/-- SpriteRowCache: RV23 of 95_test_vectors.md, a cycle 0, 1, 2, 1 of matching sprites, ends at 32 matches
with the sentinel in slot 32 (R810, log 15); a link of 0; and RV22, a self-link of entry 3. -/
theorem witness_spriteRowCache_ends :
    let sprites (w0 : Short) (links : List (Nat × Short)) : State :=
      scene 0 (links.flatMap (fun l => [(0x3000 + 8 * l.1, w0), (0x3002 + 8 * l.1, l.2)]))
    let full := (buildSpriteCache 0 (sprites 1 [(0, 1), (1, 2), (2, 1)])).scache.cells
    (full.take 32).all (fun e => e.w0 == 1) = true ∧ full[32]? = some ⟨0, 0, 0, 0⟩ ∧
    (full.take 4).map SpriteSlot.w1 = [1, 2, 1, 2] ∧
    (buildSpriteCache 0 (sprites 1 [(0, 1), (1, 0)])).scache.cells.take 3 =
      [⟨1, 1, 0, 0⟩, ⟨1, 0, 0, 0⟩, ⟨0, 0, 0, 0⟩] ∧
    (buildSpriteCache 0 (sprites 1 [(0, 3), (3, 3), (5, 0)])).scache.cells.take 3 =
      [⟨1, 3, 0, 0⟩, ⟨1, 3, 0, 0⟩, ⟨0, 0, 0, 0⟩] := by decide

/-- SpriteRowCache: RV25, a cycle of sprites with pattern 0, ends at the 320th entry with none found. -/
theorem witness_spriteRowCache_cycle :
    let s := scene 0 [(0x3002, 1), (0x300A, 2), (0x3012, 1)]
    (buildSpriteCache 0 s).scache.cells[0]? = some ⟨0, 0, 0, 0⟩ := by decide +kernel

/-- SpritePixelValue: RV17, where a later priority sprite wins, RV18, where the first opaque one does, and a
cache with nothing opaque at the pixel. -/
theorem witness_spritePixelValue :
    let cached (l : List SpriteSlot) : State :=
      { scene 0 [(64, 0x3333)] with scache := l.zipIdx.foldl (fun c e => c.put e.2 e.1) State.reset.scache }
    let shows (l : List SpriteSlot) := (l.map (fun e => (spriteNibble (cached l).vram e 0 0, e.w0.toNat / 32768)),
      (spritePixel (cached l) 0 0).map (fun p => (p.index, p.pri)))
    shows [⟨0x0002, 1, 0, 0⟩, ⟨0xA001, 0, 0, 0⟩] = ([(3, 0), (1, 1)], some (0x11, true)) ∧
    shows [⟨0x0002, 1, 0, 0⟩, ⟨0x0001, 0, 0, 0⟩] = ([(3, 0), (1, 0)], some (3, false)) ∧
    shows [⟨0x0002, 0, 8, 0⟩] = ([(0, 0)], none) := by decide

/-- DirtyBitsCleared: the last row with DIRTY_PAL, the first without. -/
theorem witness_dirtyBits :
    (frameAt (.rowDraw 223) 0xF000).phase = .render (.rowDraw 223) ∧
    ((frameAt (.rowDraw 223) 0xF000).vr 1).getLsbD 13 = true ∧
    ((frameAt (.rowDraw 0) 0xD000).vr 1).getLsbD 13 = false := by decide

/-- RendererWritesAndReads: each step of a frame. -/
theorem witness_rendererWrites :
    ∀ pt ∈ [RenderPoint.vblank, .skipTest, .rowStart 0, .rowDraw 223],
      (frameAt pt 0xF000).phase = .render pt ∧ ∃ t, step (frameAt pt 0xF000) = .next t := by
  intro pt h
  fin_cases h <;> exact ⟨rfl, ⟨_, rfl⟩⟩

/-- ScrollWrapsAtGrid. -/
theorem witness_scrollWraps :
    (511 : Short).toNat % 512 = (0xFFFF : Short).toNat % 512 ∧ (256 : Short).toNat % 256 = (0 : Short).toNat % 256 := by
  decide

/-- TextLaw: a glyph cell and an inverted cell of glyph 0. -/
theorem witness_textLaw :
    let s := (scene 0x0014 [(0x8000, 0x0180)]).setVr 8 0x8000
    (s.vr 1).getLsbD 2 = true ∧ s.vram.read (((s.vr 8).toNat + 7 / 8 * 40 + 7 / 8) % 65536) ≠ 0 ∧
    s.vram.read (((s.vr 8).toNat + 0 / 8 * 40 + 8 / 8) % 65536) = 0x80 := by decide

/-- The layers of pixel (0, 0) of a scene: sprite, plane A, plane B, each as its index and priority. -/
def layersAt (s : State) : List (Option (BitVec 6 × Bool)) :=
  [spritePixel s 0 0, planePixel s.vram (s.vr 10) (s.vr 12) (s.vr 13) 0 0,
    planePixel s.vram (s.vr 11) (s.vr 14) (s.vr 15) 0 0].map (Option.map (fun p => (p.index, p.pri)))

/-- The seven cases of PriorityResolution, no text drawn. -/
theorem witness_priorityResolution :
    let sprite (w0 : Short) (l : List (Nat × Short)) : State := buildSpriteCache 0 (scene 0 ([(0x3000, w0)] ++ l))
    ((scene 0 []).vr 1).getLsbD 2 = false ∧
    layersAt (sprite 0x8001 []) = [some (1, true), none, none] ∧
    layersAt (sprite 0x0001 [(0x1000, 0x8001)]) = [some (1, false), some (1, true), none] ∧
    layersAt (sprite 0x0001 [(0x1000, 0x2001), (0x2000, 0xC001)]) =
      [some (1, false), some (0x11, false), some (0x21, true)] ∧
    layersAt (sprite 0x0001 [(0x1000, 0x2001)]) = [some (1, false), some (0x11, false), none] ∧
    layersAt (scene 0 [(0x1000, 0x2001), (0x2000, 0x4001)]) = [none, some (0x11, false), some (0x21, false)] ∧
    layersAt (scene 0 [(0x2000, 0x4001)]) = [none, none, some (0x21, false)] ∧
    layersAt (scene 0 []) = [none, none, none] := by decide

/-- FrameIsDrawn. -/
theorem witness_frameIsDrawn :
    let s := frameAt .vblank 0x1000
    s.phase = .render .vblank ∧ (s.vr 1).getLsbD 0 = false ∧ (s.vr 1).getLsbD 1 = false ∧
    (s.vr 1).extractLsb' 12 4 ≠ 0 := by decide

/-! ### Hypotheses met: the whole machine -/

/-- StepKeepsMemoriesWellFormed and StepKeepsNesting: an invocation of the host and one of a vector. -/
theorem witness_wf_and_closed :
    let s := ready 0xFFFF [0x35] [0xBE, 0xEF, 0xFF, 0xFF] []
    s.wf = true ∧ s.closed = true ∧ { s with callers := [.render .skipTest] }.closed = true := by decide

/-- StepKeepsMemoriesWellFormed and StepKeepsNesting: a step that stores over the end of memory. -/
theorem witness_step_of_wf :
    let s := withRunOff (ready 0xFFFF [0x35] [0xBE, 0xEF, 0xFF, 0xFF] []) .never
    s.wf = true ∧ s.closed = true ∧ ∃ t, step s = .next t := ⟨by decide, by decide, _, rfl⟩

/-- RegistrationIsStatic. -/
theorem witness_registration :
    (∃ t, step State.reset = .next t) ∧ (0x22 : Byte) ≠ Params.spec.vdpPort ∧
    (0x22 : Byte) ≠ Params.spec.vdpPort + 1 := ⟨⟨_, rfl⟩, by decide, by decide⟩

/-- HostCallsServed: the host's three calls and none; the load wraps. -/
theorem witness_hostCalls :
    State.reset.phase = .idle ∧ State.reset.hostCalls = [] ∧
    { State.reset with hostCalls := [.run 0x0100] }.hostCalls = .run 0x0100 :: [] ∧
    { State.reset with hostCalls := [.render [], .run 0] }.hostCalls = .render [] :: [.run 0] ∧
    { State.reset with hostCalls := [.load 0xFFFF [0xA1, 0xB2]] }.hostCalls = .load 0xFFFF [0xA1, 0xB2] :: [] := by
  decide

theorem test_withFetchWord_runs_first_after_reset :
    let t := ran (State.reset.withFetchWord 24 0x3412A0)
    holds t.wst [0x12, 0x34] = true ∧ t.pc = 3 := by decide

theorem test_load_wraps :
    let t := ran { State.reset with hostCalls := [.load 0xFFFF [0xA1, 0xB2]] }
    t.mem.read 0xFFFF = 0xA1 ∧ t.mem.read 0x0000 = 0xB2 ∧ t.phase = .idle := by decide

/-- The handler call of a DEO2 whose low byte is still to be written. -/
def midDeo2 (wrapped : Bool) : HandlerCall := ⟨0x10, .writeNext 0x11 0x34, wrapped⟩

/-- A state in which that handler executes. -/
def inHandler (r : RunOff) (wrapped : Bool) : State :=
  (withRunOff (withExt (ready 0x0201 [] [] []) [] [0x10]) r).setPhase (.handler (midDeo2 wrapped))

/-- A turn of the handler answers a next state, whatever the handler does. -/
theorem inHandler_answers (r : RunOff) (wrapped : Bool) : ∃ t, step (inHandler r wrapped) = .next t := by
  have hs : step (inHandler r wrapped) = handlerStep (midDeo2 wrapped) (inHandler r wrapped) := rfl
  rw [hs]
  unfold handlerStep
  dsimp only
  split
  · refine ⟨_, if_pos ?_⟩
    unfold mayNest
    rw [(apply_all_frame _ _).1.params]
    rfl
  · exact ⟨_, rfl⟩

/-- ExternalHandlerTurn: an instruction that did not wrap the program counter, and one that did under each
RUN_OFF. -/
theorem witness_externalHandlerTurn :
    (inHandler .never false).phase = .handler (midDeo2 false) ∧ (∃ t, step (inHandler .never false) = .next t) ∧
    (inHandler .never true).phase = .handler (midDeo2 true) ∧ (∃ t, step (inHandler .never true) = .next t) ∧
    (inHandler .mayAtWrap true).params.runOff = .mayAtWrap ∧ (∃ t, step (inHandler .mayAtWrap true) = .next t) ∧
    (inHandler .alwaysAtWrap true).params.runOff = .alwaysAtWrap ∧
    ∃ t, step (inHandler .alwaysAtWrap true) = .next t :=
  ⟨rfl, inHandler_answers _ _, rfl, inHandler_answers _ _, rfl, inHandler_answers _ _, rfl, inHandler_answers _ _⟩

/-- ExternalHandlerTurn: a MAX_NEST that admits one more nested run, and one that does not. -/
theorem witness_externalHandlerTurn_maxNest :
    let s (n : Nat) (callers : List Caller) : State :=
      { inHandler .never false with
        callers := callers, params := { (inHandler .never false).params with maxNest := some n } }
    (s 1 []).params.maxNest = some 1 ∧ nestDepth (s 1 []).callers < 1 ∧
    (s 1 [.handler (midDeo2 false) 0x0201]).params.maxNest = some 1 ∧
    1 ≤ nestDepth (s 1 [.handler (midDeo2 false) 0x0201]).callers ∧
    (s 0 [.render .skipTest]).phase = .handler (midDeo2 false) := by decide

end Sys2Proof.Tests
end

section
/-! The family 10_state.md: the canonical form of the memories is an invariant of every step, the startup
state, and the scroll of a plane counts modulo its grid. -/

namespace Sys2Proof.Machine

/-! ### The canonical form of the state's memories, update by update -/

theorem State.wf_iff (s : State) :
    s.wf = true ↔ Memory.wf s.mem = true ∧ Memory.wf s.vram = true ∧ Store.wf 1024 s.cgram = true ∧
      Store.wf 71680 s.buf = true ∧ ∀ c ∈ s.hostCalls, c.wellFormed = true := by
  simp only [State.wf, Bool.and_eq_true, List.all_eq_true, and_assoc]

@[simp] theorem State.setDev_wf (s : State) (v : Bank 8 Byte) : (s.setDev v).wf = s.wf := rfl
@[simp] theorem State.setVreg_wf (s : State) (v : Bank 4 Short) : (s.setVreg v).wf = s.wf := rfl
@[simp] theorem State.setVr_wf (s : State) (i : BitVec 4) (v : Short) : (s.setVr i v).wf = s.wf := rfl
@[simp] theorem State.setCram_wf (s : State) (v : Bank 6 Short) : (s.setCram v).wf = s.wf := rfl
@[simp] theorem State.setPcache_wf (s : State) (v : Bank 6 Pixel) : (s.setPcache v).wf = s.wf := rfl
@[simp] theorem State.setScache_wf (s : State) (v : Regs 33 SpriteSlot) : (s.setScache v).wf = s.wf := rfl
@[simp] theorem State.setPc_wf (s : State) (v : Short) : (s.setPc v).wf = s.wf := rfl
@[simp] theorem State.setPhase_wf (s : State) (v : Phase) : (s.setPhase v).wf = s.wf := rfl
@[simp] theorem State.setFree_wf (s : State) (v : Nat) : (s.setFree v).wf = s.wf := rfl
@[simp] theorem State.advance_wf (s : State) (n : Short) : (s.advance n).wf = s.wf := rfl
@[simp] theorem State.enter_wf (s : State) (c : List Caller) (a : Short) : (s.enter c a).wf = s.wf := rfl
@[simp] theorem State.callHandler_wf (s : State) (p : Byte) (r : Resume) : (s.callHandler p r).wf = s.wf := rfl

@[simp] theorem State.setStack_wf (s : State) (r : Bool) (x : Stack) : (s.setStack r x).wf = s.wf := by
  cases r <;> rfl

@[simp] theorem State.leave_wf (s : State) (r : RunResult) : (s.leave r).wf = s.wf := by
  rw [State.leave_eq]
  rfl

@[simp] theorem State.runOffPoint_wf (s : State) : s.runOffPoint.wf = s.wf := by
  obtain ⟨-, h⟩ | ⟨-, h⟩ | ⟨-, h | h⟩ := s.runOffPoint_cases <;> simp [h]

@[simp] theorem State.settle_wf (s : State) (wrapped : Bool) : (s.settle wrapped).wf = s.wf := by
  unfold State.settle
  split
  · split <;> simp
  · rfl

theorem State.setMem_wf {s : State} (h : s.wf = true) {m : Memory} (hm : Memory.wf m = true) :
    (s.setMem m).wf = true := by
  obtain ⟨-, hrest⟩ := s.wf_iff.1 h
  exact (State.wf_iff _).2 ⟨hm, hrest⟩

theorem State.setVram_wf {s : State} (h : s.wf = true) {m : Memory} (hm : Memory.wf m = true) :
    (s.setVram m).wf = true := by
  obtain ⟨hmem, -, hrest⟩ := s.wf_iff.1 h
  exact (State.wf_iff _).2 ⟨hmem, hm, hrest⟩

theorem State.setCgram_wf {s : State} (h : s.wf = true) {m : Memory} (hm : Store.wf 1024 m = true) :
    (s.setCgram m).wf = true := by
  obtain ⟨hmem, hvram, -, hrest⟩ := s.wf_iff.1 h
  exact (State.wf_iff _).2 ⟨hmem, hvram, hm, hrest⟩

theorem State.setBuf_wf {s : State} (h : s.wf = true) {b : FrameBuffer} (hb : Store.wf 71680 b = true) :
    (s.setBuf b).wf = true := by
  obtain ⟨hmem, hvram, hcgram, -, hcalls⟩ := s.wf_iff.1 h
  exact (State.wf_iff _).2 ⟨hmem, hvram, hcgram, hb, hcalls⟩

/-! ### The bus and the VDP -/

/-- An operation of the VDP writes VRAM and CGRAM within their sizes, and no other memory. -/
theorem vdpOp_state_wf (op : WriteOp) (cmd value : Short) {s : State} (h : s.wf = true) :
    (vdpOp op cmd value s).wf = true := by
  obtain ⟨hmem, hvram, hcgram, hbuf, hcalls⟩ := s.wf_iff.1 h
  obtain ⟨hvram', hcgram'⟩ := vdpOp_wf op cmd value s hvram hcgram
  have same := vdpOp_beyond op cmd value s
  exact (State.wf_iff _).2 ⟨same.mem ▸ hmem, hvram', hcgram', same.buf ▸ hbuf, same.hostCalls ▸ hcalls⟩

theorem vdpWrite_wf {s : State} (h : s.wf = true) : (vdpWrite s).wf = true := by
  by_cases hc : s.vr 0 = 0
  · rw [vdpWrite_latch s hc]
    exact h
  · rw [vdpWrite_execute s hc]
    exact vdpOp_state_wf _ _ _ h

theorem devWrite_wf (p v : Byte) (r : Resume) {s : State} (h : s.wf = true) : (devWrite p v r s).wf = true := by
  unfold devWrite
  cases writeHandler s.params p with
  | raw => exact h
  | vdp => exact vdpWrite_wf (s := s.setDev (s.dev.wr p v)) h
  | ext => exact h

theorem devWrite2_wf (p hi lo : Byte) {s : State} (h : s.wf = true) : (devWrite2 p hi lo s).wf = true := by
  unfold devWrite2
  split
  · exact devWrite_wf _ _ _ h
  · exact devWrite_wf _ _ _ (devWrite_wf _ _ _ h)

@[simp] theorem devRead_wf (p : Byte) (s : State) : (devRead p s).2.wf = s.wf := by
  unfold devRead
  cases readHandler s.params p <;> rfl

@[simp] theorem devReadByte_wf (ret : Bool) (p : Byte) (s : State) : (devReadByte ret p s).wf = s.wf := by
  unfold devReadByte
  split <;> simp

@[simp] theorem devReadLo_wf (ret : Bool) (hi p : Byte) (s : State) : (devReadLo ret hi p s).wf = s.wf := by
  unfold devReadLo
  split <;> simp

@[simp] theorem devRead2_wf (ret : Bool) (p : Byte) (s : State) : (devRead2 ret p s).wf = s.wf := by
  unfold devRead2
  split <;> simp

theorem resumeInstr_wf (r : Resume) (v : Byte) {s : State} (h : s.wf = true) : (resumeInstr r v s).wf = true := by
  cases r with
  | writeDone => exact h
  | writeNext p lo => exact devWrite_wf _ _ _ h
  | readByte ret => exact (State.setStack_wf _ _ _).trans h
  | readHi ret p => exact (devReadLo_wf _ _ _ _).trans h
  | readLo ret hi => exact (State.setStack_wf _ _ _).trans h

/-! ### External handlers -/

/-- A handler's change has an address of the memory's own width, so it stays inside. -/
theorem apply_wf (e : ExtEffect) {s : State} (h : s.wf = true) : (s.apply e).wf = true := by
  obtain ⟨hmem, hvram, hcgram, -⟩ := s.wf_iff.1 h
  cases e with
  | mem a v => exact State.setMem_wf h (Store.wf_write _ _ _ _ hmem a.isLt)
  | vram a v => exact State.setVram_wf h (Store.wf_write _ _ _ _ hvram a.isLt)
  | cgram o v => exact State.setCgram_wf h (Store.wf_write _ _ _ _ hcgram o.isLt)
  | stackByte ret i v => exact (State.setStack_wf _ _ _).trans h
  | stackPtr ret p => exact (State.setStack_wf _ _ _).trans h
  | dev | vreg | cram | pcache | scache => exact h

theorem apply_all_wf (es : List ExtEffect) {s : State} (h : s.wf = true) : (es.foldl State.apply s).wf = true := by
  induction es generalizing s with
  | nil => exact h
  | cons e es ih => exact ih (apply_wf e h)

theorem handlerStep_wf (k : HandlerCall) {s t : State} (h : s.wf = true) (ht : handlerStep k s = .next t) :
    t.wf = true := by
  have left := apply_all_wf (Config.extReply s.free (resumeDir k.resume) k.port s).effects
    (s := s.setFree (s.free + 1)) h
  unfold handlerStep at ht
  dsimp only at ht
  split at ht
  · split at ht
    · cases ht
      exact left
    · cases ht
  · cases ht
    rw [State.settle_wf]
    exact resumeInstr_wf _ _ left

/-! ### Instructions -/

/-- The instructions that write main memory: STZ, STR and STA. -/
theorem storeOp_wf (m : Mode) (wide : Bool) (store : Short → Short → Memory) {s : State} (h : s.wf = true)
    (hstore : ∀ a v, Memory.wf (store a v) = true) : (storeOp m wide store s).wf = true :=
  State.setMem_wf ((State.setStack_wf (s.advance 1) _ _).trans h) (hstore _ _)

/-- Only a store or a device access can touch a memory; each keeps the canonical form. -/
theorem exec_wf (i : Instr) {s t : State} (h : s.wf = true) (ht : exec i s = .next t) : t.wf = true := by
  have next : ∀ u, exec i s = .next u → u.wf = true → t.wf = true := by
    intro u hu hwf
    cases hu.symm.trans ht
    exact hwf
  have stack : ∀ (u : State) (r : Bool) (x : Stack), exec i s = .next (u.setStack r x) → u.wf = s.wf →
      t.wf = true :=
    fun u r x hu hwf => next _ hu ((State.setStack_wf u r x).trans (hwf.trans h))
  obtain ⟨hmem, -⟩ := s.wf_iff.1 h
  cases i
  case brk => exact next _ rfl ((State.leave_wf _ _).trans h)
  case jci | jmi | jsi | lit | lit2 | litr | lit2r => exact next _ rfl h
  case jmp m | jcn m => exact next _ rfl ((State.setStack_wf _ _ _).trans h)
  case jsr m => exact next _ rfl (((State.setStack_wf _ _ _).trans (State.setStack_wf _ _ _)).trans h)
  case sth m => exact stack _ _ _ rfl (State.setStack_wf _ _ _)
  case stz m => exact next _ rfl (storeOp_wf m _ _ h fun a v => zpWrite_wf _ _ _ _ hmem)
  case str m => exact next _ rfl (storeOp_wf m _ _ h fun a v => memWrite_wf _ _ _ _ hmem)
  case sta m => exact next _ rfl (storeOp_wf m _ _ h fun a v => memWrite_wf _ _ _ _ hmem)
  case dei m =>
    refine next _ rfl ?_
    split <;> simp [h]
  case deo m =>
    refine next _ rfl ?_
    split
    · exact devWrite2_wf _ _ _ ((State.setStack_wf _ _ _).trans h)
    · exact devWrite_wf _ _ _ ((State.setStack_wf _ _ _).trans h)
  all_goals exact stack (s.advance 1) _ _ rfl rfl

/-! ### The host and the renderer -/

theorem serve_wf (c : HostCall) {s : State} (h : s.wf = true) (hc : c.wellFormed = true) : (s.serve c).wf = true := by
  obtain ⟨hmem, -⟩ := s.wf_iff.1 h
  cases c with
  | run a => exact h
  | render buf => exact State.setBuf_wf h hc
  | load off image => exact State.setMem_wf h (bulkLoad_wf image _ _ hmem)

theorem hostStep_wf {s : State} (h : s.wf = true) : (hostStep s).wf = true := by
  obtain ⟨hmem, hvram, hcgram, hbuf, hcalls⟩ := s.wf_iff.1 h
  unfold hostStep
  split
  · exact h
  · next c rest e =>
    rw [e, List.forall_mem_cons] at hcalls
    obtain ⟨hc, hrest⟩ := hcalls
    exact serve_wf c ((State.wf_iff _).2 ⟨hmem, hvram, hcgram, hbuf, hrest⟩) hc

/-- A row of the frame lies inside the buffer: row 223 ends at its last pixel (R800). -/
theorem drawRow_wf (y : Fin 224) {s : State} (h : s.wf = true) : (drawRow y s).wf = true := by
  obtain ⟨-, -, -, hbuf, -⟩ := s.wf_iff.1 h
  have hrow : y.val * Config.frameWidth + Config.frameWidth ≤ 71680 := by
    have := y.isLt
    unfold Config.frameWidth
    omega
  exact State.setBuf_wf h (Store.wf_splice _ _ _ _ _ hbuf hrow)

theorem renderStep_wf (pt : RenderPoint) {s : State} (h : s.wf = true) : (renderStep pt s).wf = true := by
  cases pt with
  | vblank =>
    rw [renderStep, renderVblank_eq]
    exact h
  | skipTest =>
    rw [renderStep, renderSkipTest_eq]
    exact h
  | rowStart y =>
    rw [renderStep, renderRowStart_eq]
    exact h
  | rowDraw y =>
    rw [renderStep, renderRowDraw_eq, State.setPhase_wf]
    exact drawRow_wf y (s := rowDrawState s) h

/-! ### The invariant -/

/-- Settles O48, by the four kinds of step; each kind's lemma says which memories it writes. -/
theorem stepKeepsMemoriesWellFormed : Obligations.StepKeepsMemoriesWellFormed := by
  intro s t h ht
  unfold step at ht
  split at ht
  · cases ht
    exact hostStep_wf h
  · cases ht
    exact renderStep_wf _ h
  · exact handlerStep_wf _ h ht
  · split at ht
    · next u hu =>
      cases ht
      rw [State.settle_wf]
      exact exec_wf _ h hu
    · cases ht
    · cases ht

/-- Settles O50: nothing is listed in any memory, no call is queued, and the host is in control. -/
theorem resetSatisfiesInvariants : Obligations.ResetSatisfiesInvariants :=
  ⟨(State.wf_iff _).2 ⟨State.reset_mem_wf, Store.wf_nil _, Store.wf_nil _, Store.wf_nil _, List.forall_mem_nil _⟩,
    rfl⟩

/-! ### Startup (R126) -/

theorem Regs.mem_all {n : Nat} {α : Type} {v e : α} (h : e ∈ (Regs.all n v).cells) : e = v :=
  List.eq_of_mem_replicate h

/-- Settles O51: an empty memory reads zero everywhere, and each register file is filled with zeros. -/
theorem resetState : Obligations.ResetState :=
  ⟨Store.read_nil, Store.read_nil, Store.read_nil, rfl, rfl, Bank.rd_all _, Bank.rd_all _, Bank.rd_all _,
    Bank.rd_all _, Bank.rd_all _, Bank.rd_all _, fun _ => Regs.mem_all, rfl, rfl⟩

/-! ### Scroll (R118, R826) -/

/-- Settles O44: a scroll enters a plane's pixel only through the grid coordinates, which are taken modulo
the grid's size. -/
theorem scrollWrapsAtGrid : Obligations.ScrollWrapsAtGrid := by
  intro vram base scx scy scx' scy' x y hx hy
  have hpx : (x + scx.toNat) % 512 = (x + scx'.toNat) % 512 := Nat.ModEq.add_left x hx
  have hpy : (y + scy.toNat) % 256 = (y + scy'.toNat) % 256 := Nat.ModEq.add_left y hy
  simp only [planePixel, hpx, hpy]

end Sys2Proof.Machine
end

section
/-! The family 20_memory.md: the zero-page primitives, and a step of an invocation as the run of the
instruction that stands in memory at the program counter. -/

namespace Sys2Proof.Machine

/-! ### The zero-page primitives (R204), as reads of the memory they leave -/

/-- The address of a zero-page short's second byte wraps within the zero page. -/
theorem zpNext_toNat (a : Byte) : (a + 1).toNat = (a.toNat + 1) % 256 := BitVec.toNat_add a 1

theorem zpRead_byte_toNat (mem : Memory) (a : Byte) : (zpRead mem false a).toNat = (mem.read a.toNat).toNat :=
  BitVec.toNat_setWidth_of_le (by decide : 8 ≤ 16)

theorem zpRead_short_toNat (mem : Memory) (a : Byte) :
    (zpRead mem true a).toNat = (mem.read a.toNat).toNat * 256 + (mem.read ((a.toNat + 1) % 256)).toNat := by
  rw [← zpNext_toNat]
  exact append_toNat _ _

theorem read_zpWrite_byte (mem : Memory) (a : Byte) (v : Short) (b : Nat) :
    (zpWrite mem false a v).read b = if a.toNat = b then BitVec.ofNat 8 v.toNat else mem.read b := by
  rw [← loByte_eq]
  exact Store.read_write mem a.toNat b (loByte v)

theorem read_zpWrite_short (mem : Memory) (a : Byte) (v : Short) (b : Nat) :
    (zpWrite mem true a v).read b =
      if (a.toNat + 1) % 256 = b then BitVec.ofNat 8 v.toNat
      else if a.toNat = b then BitVec.ofNat 8 (v.toNat / 256) else mem.read b := by
  rw [← zpNext_toNat, ← loByte_eq, ← hiByte_eq]
  exact read_write2 mem a.toNat (a + 1).toNat b (hiByte v) (loByte v)

/-- Settles O22: the two bytes of a short lie at different addresses, so neither write hides the other. -/
theorem zeroPagePrimitives : Obligations.ZeroPagePrimitives := by
  intro mem a v a2
  have distinct : a2 ≠ a.toNat := by
    have := a.isLt
    omega
  refine ⟨zpRead_byte_toNat mem a, zpRead_short_toNat mem a, ?_, fun b hb => ?_, ?_, ?_, fun b hb hb2 => ?_⟩
  · rw [read_zpWrite_byte, if_pos rfl]
  · rw [read_zpWrite_byte, if_neg hb.symm]
  · rw [read_zpWrite_short, if_neg distinct, if_pos rfl]
  · rw [read_zpWrite_short, if_pos rfl]
  · rw [read_zpWrite_short, if_neg hb2.symm, if_neg hb.symm]

/-! ### The fetch and the step of an invocation (R214, R401, R402) -/

/-- What bytes decode to is what their first three bytes say; a byte that is missing is not looked at. -/
theorem decode_ok_eq {op : Byte} {bytes rest : List Byte} {i : Instr} (h : decode (op :: bytes) = .ok (i, rest)) :
    i = decodeOp op (bytes.getD 0 0) (bytes.getD 1 0) := by
  unfold decode at h
  dsimp only at h
  split at h
  · cases h
  · cases h
    rfl

theorem fetchInstr_of_decode {s : State} {i : Instr} {rest : List Byte}
    (h : decode [s.mem.read s.pc.toNat, s.mem.read (s.pc + 1).toNat, s.mem.read (s.pc + 2).toNat] = .ok (i, rest)) :
    fetchInstr s = i := by
  have opcode : fetchByte s 0 = s.mem.read s.pc.toNat := by simp [fetchByte]
  rw [decode_ok_eq h, fetchInstr, opcode]
  rfl

/-- A step of an invocation (R402), and RUN_OFF's check after it (R410). -/
theorem step_of_exec {s t : State} (hrun : s.phase = .run) (h : exec (fetchInstr s) s = .next t) :
    step s = .next (t.settle (fetchWraps (fetchInstr s) s.pc)) := by
  unfold step
  rw [hrun]
  dsimp only
  rw [h]

theorem exec_answers (i : Instr) (s : State) : ∃ t, exec i s = .next t := by
  by_cases hi : i = .brk
  · subst hi
    exact ⟨_, rfl⟩
  · obtain ⟨t, ht, -⟩ := exec_frame i s hi
    exact ⟨t, ht⟩

/-- RUN_OFF's check after an instruction reads the parameters the instruction began with. -/
theorem exec_params {i : Instr} {s t : State} (hi : i ≠ .brk) (h : exec i s = .next t) : t.params = s.params := by
  obtain ⟨u, hu, frame, -⟩ := exec_frame i s hi
  cases hu.symm.trans h
  exact frame.params

/-! ### Where RUN_OFF is consulted, and what it makes of the instruction (R410) -/

theorem fetchWraps_eq_true {i : Instr} {a : Short} (hi : i ≠ .brk) (h : 65535 < a.toNat + instrLength i) :
    fetchWraps i a = true := by
  simp [fetchWraps, hi, h]

theorem fetchWraps_eq_false {i : Instr} {a : Short} (h : i = .brk ∨ a.toNat + instrLength i ≤ 65535) :
    fetchWraps i a = false := by
  obtain rfl | h := h
  · rfl
  · simp [fetchWraps, h]

@[simp] theorem State.settle_unwrapped (s : State) : s.settle false = s := rfl

theorem State.settle_handler {s : State} {h : HandlerCall} (hp : s.phase = .handler h) :
    s.settle true = s.setPhase (.handler ⟨h.port, h.resume, true⟩) := by
  simp [State.settle, hp]

theorem State.settle_complete {s : State} (hp : ∀ h, s.phase ≠ .handler h) : s.settle true = s.runOffPoint := by
  unfold State.settle
  rw [if_pos rfl]
  split
  · next h e => exact absurd e (hp h)
  · rfl

theorem State.runOffPoint_never {s : State} (h : s.params.runOff = .never) : s.runOffPoint = s := by
  simpa [h] using s.runOffPoint_cases

theorem State.runOffPoint_always {s : State} (h : s.params.runOff = .alwaysAtWrap) :
    s.runOffPoint = s.leave .ranOff := by
  simpa [h] using s.runOffPoint_cases

theorem State.runOffPoint_may {s : State} (h : s.params.runOff = .mayAtWrap) :
    s.runOffPoint = (s.setFree (s.free + 1)).leave .ranOff ∨ s.runOffPoint = s.setFree (s.free + 1) := by
  simpa [h] using s.runOffPoint_cases

/-- Settles O5: the step runs the fetched instruction, which no instruction refuses, and `settle` makes of
its outcome what the wrap and RUN_OFF say. -/
theorem stepRunsDecodedInstruction : Obligations.StepRunsDecodedInstruction := by
  intro s i rest hrun hdecode _
  have fetched := fetchInstr_of_decode hdecode
  obtain ⟨t, ht⟩ := exec_answers i s
  have hstep : step s = .next (t.settle (fetchWraps i s.pc)) := by
    subst fetched
    exact step_of_exec hrun ht
  refine ⟨t, ht, fun hend => ?_, fun hi hwrap => ?_⟩
  · rw [hstep, fetchWraps_eq_false hend, State.settle_unwrapped]
  · rw [fetchWraps_eq_true hi hwrap] at hstep
    refine ⟨fun h hp => ?_, fun hp => ?_⟩
    · rw [hstep, State.settle_handler hp]
    · rw [hstep, State.settle_complete hp, ← exec_params hi ht]
      refine ⟨fun never => ?_, fun always => ?_, fun may => ?_⟩
      · rw [State.runOffPoint_never never]
      · rw [State.runOffPoint_always always]
      · exact (State.runOffPoint_may may).imp (congrArg _) (congrArg _)

end Sys2Proof.Machine
end

section
/-! The family 30_encoding.md: an opcode byte is its mode bits and its base operation, the opcode map by these
two, and the decoder and the encoder as inverses of each other. -/

namespace Sys2Proof

/-! ### An opcode byte by its fields (R301) -/

/-- The two fields of an opcode byte are all there is in it. -/
theorem opByte_fields (op : Byte) : opByte (decodeMode op) (op.extractLsb' 0 5) = op := by
  revert op
  decide

/-- Base operation 0: the mode bits select the form (R303). -/
theorem decodeOp_opByte_zero (m : Mode) (b1 b2 : Byte) : decodeOp (opByte m 0) b1 b2 = decodeForm m b1 b2 := by
  rw [decodeOp, decodeBase_opByte, decodeMode_opByte]
  rfl

/-- The table of R304: base operations 1 to 31, each with its instruction in every mode. -/
def opcodeMap : List (BitVec 5 × (Mode → Instr)) :=
  [(0x01, .inc), (0x02, .pop), (0x03, .nip), (0x04, .swp), (0x05, .rot), (0x06, .dup), (0x07, .ovr), (0x08, .equ),
    (0x09, .neq), (0x0A, .gth), (0x0B, .lth), (0x0C, .jmp), (0x0D, .jcn), (0x0E, .jsr), (0x0F, .sth), (0x10, .ldz),
    (0x11, .stz), (0x12, .ldr), (0x13, .str), (0x14, .lda), (0x15, .sta), (0x16, .dei), (0x17, .deo), (0x18, .add),
    (0x19, .sub), (0x1A, .mul), (0x1B, .div), (0x1C, .and), (0x1D, .ora), (0x1E, .eor), (0x1F, .sft)]

theorem opcodeMap_base_ne_zero : ∀ row ∈ opcodeMap, row.1 ≠ 0 := by decide

/-- The decoder reads the table, whatever bytes follow. -/
theorem decodeOp_opByte_row (m : Mode) (b1 b2 : Byte) :
    ∀ row ∈ opcodeMap, decodeOp (opByte m row.1) b1 b2 = row.2 m := by
  intro row hrow
  rw [decodeOp, decodeBase_opByte, decodeMode_opByte]
  fin_cases hrow <;> rfl

/-! ### The decoder on an opcode byte and what follows it (R300) -/

theorem decode_cons {op : Byte} {bytes : List Byte} (h : immediateBytes op ≤ bytes.length) :
    decode (op :: bytes) =
      .ok (decodeOp op (bytes.getD 0 0) (bytes.getD 1 0), bytes.drop (immediateBytes op)) :=
  if_neg (Nat.not_lt.mpr h)

theorem decode_truncated {op : Byte} {bytes : List Byte} (h : bytes.length < immediateBytes op) :
    decode (op :: bytes) = .error (.truncated (1 + immediateBytes op)) :=
  if_pos h

/-- Beside `Machine.decode_ok_eq`: the immediate bytes were there, and all bytes after them are left. -/
theorem decode_ok_rest {op : Byte} {bytes rest : List Byte} {i : Instr} (h : decode (op :: bytes) = .ok (i, rest)) :
    immediateBytes op ≤ bytes.length ∧ rest = bytes.drop (immediateBytes op) := by
  obtain short | enough := Nat.lt_or_ge bytes.length (immediateBytes op)
  · cases (decode_truncated short).symm.trans h
  · cases (decode_cons enough).symm.trans h
    exact ⟨enough, rfl⟩

/-- A base operation of the table is one byte (R304). -/
theorem decode_row {base : BitVec 5} {f : Mode → Instr} (h : (base, f) ∈ opcodeMap) (m : Mode) (rest : List Byte) :
    decode (opByte m base :: rest) = .ok (f m, rest) := by
  have single : immediateBytes (opByte m base) = 0 :=
    Laws.immediateBytes_opByte m base (opcodeMap_base_ne_zero _ h)
  rw [decode_cons (single ▸ Nat.zero_le _), decodeOp_opByte_row m _ _ _ h, single, List.drop_zero]

/-! ### The eight forms of base operation 0 (R303), high byte first (R305) -/

theorem decode_brk (rest : List Byte) : decode (0x00 :: rest) = .ok (.brk, rest) :=
  decode_cons (Nat.zero_le _)

section
variable (b1 b2 : Byte) (rest : List Byte)

theorem decode_jci : decode (0x20 :: b1 :: b2 :: rest) = .ok (.jci (b1 ++ b2), rest) :=
  decode_cons (Nat.le_add_left 2 _)

theorem decode_jmi : decode (0x40 :: b1 :: b2 :: rest) = .ok (.jmi (b1 ++ b2), rest) :=
  decode_cons (Nat.le_add_left 2 _)

theorem decode_jsi : decode (0x60 :: b1 :: b2 :: rest) = .ok (.jsi (b1 ++ b2), rest) :=
  decode_cons (Nat.le_add_left 2 _)

theorem decode_lit : decode (0x80 :: b1 :: rest) = .ok (.lit b1, rest) :=
  decode_cons (Nat.le_add_left 1 _)

theorem decode_lit2 : decode (0xA0 :: b1 :: b2 :: rest) = .ok (.lit2 (b1 ++ b2), rest) :=
  decode_cons (Nat.le_add_left 2 _)

theorem decode_litr : decode (0xC0 :: b1 :: rest) = .ok (.litr b1, rest) :=
  decode_cons (Nat.le_add_left 1 _)

theorem decode_lit2r : decode (0xE0 :: b1 :: b2 :: rest) = .ok (.lit2r (b1 ++ b2), rest) :=
  decode_cons (Nat.le_add_left 2 _)

end

/-! ### Decoding after encoding -/

/-- Settles O1, by the instruction: the eight forms of base operation 0 one by one, where an immediate's two
bytes make up its value again, and the rest as rows of the table. -/
theorem decodeOfEncode : Obligations.DecodeOfEncode := by
  rintro i rest -
  cases i
  case brk => exact decode_brk rest
  case jci d => exact (decode_jci _ _ rest).trans (by rw [hiByte_append_loByte])
  case jmi d => exact (decode_jmi _ _ rest).trans (by rw [hiByte_append_loByte])
  case jsi d => exact (decode_jsi _ _ rest).trans (by rw [hiByte_append_loByte])
  case lit v => exact decode_lit v rest
  case lit2 v => exact (decode_lit2 _ _ rest).trans (by rw [hiByte_append_loByte])
  case litr v => exact decode_litr v rest
  case lit2r v => exact (decode_lit2r _ _ rest).trans (by rw [hiByte_append_loByte])
  all_goals exact decode_row (by simp [opcodeMap]) _ rest

/-! ### Encoding after decoding -/

/-- An instruction's bytes are its opcode and as many of the two bytes after it as it has immediates. -/
theorem encode_decodeForm (m : Mode) (b1 b2 : Byte) :
    encode (decodeForm m b1 b2) = opByte m 0 :: [b1, b2].take (immediateBytes (opByte m 0)) := by
  rcases m with ⟨_ | _, _ | _, _ | _⟩ <;> simp only [decodeForm, encode, hiByte_append, loByte_append] <;> rfl

theorem encode_decodeOp_take (op b1 b2 : Byte) :
    encode (decodeOp op b1 b2) = op :: [b1, b2].take (immediateBytes op) := by
  by_cases h : decodeBase op = 0
  · have form : opByte (decodeMode op) 0 = op := by
      rw [← BitVec.eq_of_toNat_eq (y := 0) h, opByte_fields]
    rw [← form, decodeOp_opByte_zero, encode_decodeForm]
  · rw [encode_decodeOp op b1 b2 h, immediateBytes, if_neg h, List.take_zero]

theorem immediateBytes_le (op : Byte) : immediateBytes op ≤ 2 := by
  revert op
  decide

/-- The first bytes of a list as the decoder looks at them, one by one. -/
theorem take_getD_eq_take {n : Nat} {bytes : List Byte} (h2 : n ≤ 2) (h : n ≤ bytes.length) :
    [bytes.getD 0 0, bytes.getD 1 0].take n = bytes.take n := by
  match n, bytes, h2, h with
  | 0, _, _, _ => rfl
  | 1, _ :: _, _, _ => rfl
  | 2, _ :: _ :: _, _, _ => rfl

/-- Settles O2: the opcode, the immediates that the decoder took and the bytes it left are all there was. -/
theorem encodeOfDecode : Obligations.EncodeOfDecode := by
  intro bytes rest i h
  cases bytes with
  | nil => cases h
  | cons op bytes =>
    obtain ⟨enough, rfl⟩ := decode_ok_rest h
    rw [Machine.decode_ok_eq h, encode_decodeOp_take, take_getD_eq_take (immediateBytes_le op) enough,
      List.cons_append, List.take_append_drop]

/-! ### The length by the opcode byte -/

/-- The three rows of R300's table of lengths, by the bytes that R308 lists. -/
theorem length_by_opcode (op : Byte) :
    (if op ∈ [0x20, 0x40, 0x60, 0xA0, 0xE0] then 3 else if op ∈ [0x80, 0xC0] then 2 else 1) =
      1 + immediateBytes op := by
  revert op
  decide

/-- Settles O3: the table's length is one more than the immediates the decoder asks for, and only their number
decides whether it answers. -/
theorem everyOpcodeByteIsAnInstruction : Obligations.EveryOpcodeByteIsAnInstruction := by
  intro op rest len
  have hlen : len = 1 + immediateBytes op := length_by_opcode op
  rw [hlen, Nat.add_sub_cancel_left, Nat.add_le_add_iff_left, Nat.add_lt_add_iff_left]
  refine ⟨fun i left h => ?_, fun enough => ⟨_, decode_cons enough⟩, decode_truncated⟩
  rw [Machine.decode_ok_eq h, instrLength_decodeOp]

/-! ### The opcode map -/

/-- Settles O4: an opcode byte is the `opByte` of its fields, so each row is one of `opcodeMap`; the forms of
base operation 0 are the lemmas above, and the fourteen words are evaluated. -/
theorem opcodeMapWords : Obligations.OpcodeMapWords := by
  refine ⟨fun row hrow op rest hop => ?_, fun b1 b2 rest => ?_, ?_⟩
  · have answer := decode_row hrow (decodeMode op) rest
    rwa [← hop, opByte_fields] at answer
  · exact ⟨decode_brk rest, decode_jci b1 b2 rest, decode_jmi b1 b2 rest, decode_jsi b1 b2 rest, decode_lit b1 rest,
      decode_lit2 b1 b2 rest, decode_litr b1 rest, decode_lit2r b1 b2 rest⟩
  · decide

end Sys2Proof
end

section
/-! The family 40_execution.md: what every instruction does to the two stack pointers, the keep bit, and the turns
of an external handler inside an instruction. -/

namespace Sys2Proof.Machine

/-! ### The end of an invocation (R400, R905) -/

/-- Settles O59, by the three kinds of caller. -/
theorem invocationEndsForItsCaller : Obligations.InvocationEndsForItsCaller :=
  fun s r => ⟨s.leave_host r, s.leave_render r, s.leave_handler r⟩

/-! ### The selected stack and the phase, written over -/

@[simp] theorem State.setStack_stack (s : State) (r : Bool) : s.setStack r (s.stack r) = s := by
  cases r <;> rfl

@[simp] theorem State.setStack_setStack (s : State) (r : Bool) (x y : Stack) :
    (s.setStack r x).setStack r y = s.setStack r y := by
  cases r <;> rfl

theorem State.setStack_setPhase (s : State) (r : Bool) (x : Stack) (p : Phase) :
    (s.setStack r x).setPhase p = (s.setPhase p).setStack r x := by
  cases r <;> rfl

theorem State.setStack_setPc (s : State) (r : Bool) (x : Stack) (pc : Short) :
    (s.setStack r x).setPc pc = (s.setPc pc).setStack r x := by
  cases r <;> rfl

theorem State.setStack_setMem (s : State) (r : Bool) (x : Stack) (mem : Memory) :
    (s.setStack r x).setMem mem = (s.setMem mem).setStack r x := by
  cases r <;> rfl

theorem State.setStack_comm (s : State) (r : Bool) (x y : Stack) :
    (s.setStack r x).setStack (!r) y = (s.setStack (!r) y).setStack r x := by
  cases r <;> rfl

theorem State.setPhase_self {s : State} {p : Phase} (h : s.phase = p) : s.setPhase p = s := by
  subst h
  rfl

/-! ### A bus access by the handler at its port (R700, R701, R704, R705) -/

theorem devWrite_plain {s : State} {p : Byte} (h : PlainWrite s.params p) (v : Byte) (r : Resume) :
    devWrite p v r s = s.setDev (s.dev.wr p v) := by
  simp only [devWrite, writeHandler_raw h]

theorem devWrite_vdp {s : State} {p : Byte} (h : p = s.params.vdpPort + 1) (v : Byte) (r : Resume) :
    devWrite p v r s = vdpWrite (s.setDev (s.dev.wr p v)) := by
  subst h
  simp only [devWrite, writeHandler_vdp]

theorem devWrite_ext {s : State} {p : Byte} (h : ExtWrite s.params p) (v : Byte) (r : Resume) :
    devWrite p v r s = (s.setDev (s.dev.wr p v)).setPhase (.handler ⟨p, r, false⟩) := by
  simp only [devWrite, writeHandler_ext.2 h]
  rfl

theorem vdpWrite_dev (s : State) : (vdpWrite s).dev = s.dev := by
  by_cases h : s.vr 0 = 0
  · rw [vdpWrite_latch s h]
    rfl
  · rw [vdpWrite_execute s h]
    exact (vdpExecute_beyond _ s).dev

/-- A bus write stores its byte whatever handler the port has (R701). -/
@[simp] theorem devWrite_dev (p v : Byte) (r : Resume) (s : State) : (devWrite p v r s).dev = s.dev.wr p v := by
  unfold devWrite
  cases writeHandler s.params p with
  | raw => rfl
  | vdp => exact vdpWrite_dev _
  | ext => rfl

/-- No bus access looks at a stack, so it leaves both as they are. -/
@[simp] theorem devWrite_stack (p v : Byte) (k : Resume) (s : State) (r : Bool) :
    (devWrite p v k s).stack r = s.stack r := by
  have h := devWrite_setStack p v k s r (s.stack r)
  rw [State.setStack_stack] at h
  rw [h, State.stack_setStack_same]

@[simp] theorem devRead_stack (p : Byte) (s : State) (r : Bool) : (devRead p s).2.stack r = s.stack r := by
  have h := congrArg Prod.snd (devRead_setStack p s r (s.stack r))
  rw [State.setStack_stack] at h
  rw [h, State.stack_setStack_same]

theorem devWrite2_ext {s : State} {p : Byte} (h : ExtWrite s.params p) (hi lo : Byte) :
    devWrite2 p hi lo s = devWrite p hi (.writeNext (p + 1) lo) s :=
  if_pos (writeHandler_ext.2 h)

theorem devWrite2_not_ext {s : State} {p : Byte} (h : ¬ ExtWrite s.params p) (hi lo : Byte) :
    devWrite2 p hi lo s = devWrite (p + 1) lo .writeDone (devWrite p hi .writeDone s) :=
  if_neg fun e => h (writeHandler_ext.1 e)

theorem devWrite2_setStack (p hi lo : Byte) (s : State) (r : Bool) (x : Stack) :
    devWrite2 p hi lo (s.setStack r x) = (devWrite2 p hi lo s).setStack r x := by
  unfold devWrite2
  simp only [State.setStack_params, devWrite_setStack]
  split <;> rfl

@[simp] theorem devWrite2_stack (p hi lo : Byte) (s : State) (r : Bool) :
    (devWrite2 p hi lo s).stack r = s.stack r := by
  unfold devWrite2
  split <;> simp only [devWrite_stack]

theorem devReadByte_ext {s : State} {p : Byte} (h : ExtRead s.params p) (ret : Bool) :
    devReadByte ret p s = s.setPhase (.handler ⟨p, .readByte ret, false⟩) :=
  if_pos (readHandler_ext.2 h)

theorem devReadByte_not_ext {s : State} {p : Byte} (h : ¬ ExtRead s.params p) (ret : Bool) :
    devReadByte ret p s =
      (devRead p s).2.setStack ret ((s.stack ret).push false ((devRead p s).1.setWidth 16)) :=
  (if_neg fun e => h (readHandler_ext.1 e)).trans (by simp only [devRead_stack])

theorem devReadLo_ext {s : State} {p : Byte} (h : ExtRead s.params p) (ret : Bool) (hi : Byte) :
    devReadLo ret hi p s = s.setPhase (.handler ⟨p, .readLo ret hi, false⟩) :=
  if_pos (readHandler_ext.2 h)

theorem devReadLo_not_ext {s : State} {p : Byte} (h : ¬ ExtRead s.params p) (ret : Bool) (hi : Byte) :
    devReadLo ret hi p s = (devRead p s).2.setStack ret ((s.stack ret).push true (hi ++ (devRead p s).1)) :=
  (if_neg fun e => h (readHandler_ext.1 e)).trans (by simp only [devRead_stack])

theorem devRead2_ext {s : State} {p : Byte} (h : ExtRead s.params p) (ret : Bool) :
    devRead2 ret p s = s.setPhase (.handler ⟨p, .readHi ret (p + 1), false⟩) :=
  if_pos (readHandler_ext.2 h)

theorem devRead2_not_ext {s : State} {p : Byte} (h : ¬ ExtRead s.params p) (ret : Bool) :
    devRead2 ret p s = devReadLo ret (devRead p s).1 (p + 1) (devRead p s).2 :=
  if_neg fun e => h (readHandler_ext.1 e)

/-! ### The rest of an instruction after its external handler (R408, R704, R705) -/

theorem wordBytes_byte (v : Byte) : wordBytes false (v.setWidth 16 : Short).toNat = [v] := by
  have hv : (v.setWidth 16 : Short).toNat = v.toNat := BitVec.toNat_setWidth_of_le (by decide)
  simp [wordBytes, hv]

theorem wordBytes_append (hi lo : Byte) : wordBytes true (hi ++ lo : Short).toNat = [hi, lo] := by
  rw [wordBytes_toNat]
  simp

theorem pushedOnly_push (ret : Bool) (s : State) (short : Bool) (v : Short) :
    PushedOnly ret s (s.setStack ret ((s.stack ret).push short v)) (wordBytes short v.toNat) := by
  refine ⟨by simp, ?_⟩
  simpa using (StackEffect.refl (s.stack ret)).push (by simp) short v

/-- Settles O55, by what is left of the instruction; the next access of DEI2 and DEO2 by the handler at its port. -/
theorem resumedInstruction : Obligations.ResumedInstruction := by
  intro s ret p v w
  refine ⟨?_, fun ext => devReadLo_ext ext ret v, fun notExt => ?_, ?_, ?_, rfl⟩
  · rw [← wordBytes_byte v]
    exact pushedOnly_push ret s false _
  · rw [← wordBytes_append, resumeInstr, devReadLo_not_ext notExt, ← devRead_stack p s ret]
    exact pushedOnly_push ret (devRead p s).2 true _
  · rw [← wordBytes_append]
    exact pushedOnly_push ret s true _
  · exact ⟨s.setDev (s.dev.wr p w), rfl, Bank.rd_wr_same _ _ _, fun q hq => Bank.rd_wr_ne _ _ _ _ hq.symm,
      fun h => devWrite_plain h w _, fun h => devWrite_vdp h w _, fun h => devWrite_ext h w _⟩

/-! ### The turn of an external handler (R409, R410, R412, R702, R710) -/

theorem handlerStep_run {h : HandlerCall} {s : State} {a : Short}
    (hr : (Config.extReply s.free (resumeDir h.resume) h.port s).next = .run a) :
    let left := (Config.extReply s.free (resumeDir h.resume) h.port s).effects.foldl State.apply
      (s.setFree (s.free + 1))
    handlerStep h s =
      if mayNest left then .next (left.enter [.handler h left.pc] a) else .fault .nestLimit := by
  simp only [handlerStep, hr]

theorem handlerStep_ret {h : HandlerCall} {s : State} {v : Byte}
    (hr : (Config.extReply s.free (resumeDir h.resume) h.port s).next = .ret v) :
    let left := (Config.extReply s.free (resumeDir h.resume) h.port s).effects.foldl State.apply
      (s.setFree (s.free + 1))
    handlerStep h s = .next ((resumeInstr h.resume v (left.setPhase .run)).settle h.wrapped) := by
  simp only [handlerStep, hr]

theorem mayNest_eq_true {s : State}
    (h : s.params.maxNest = none ∨ ∃ n, s.params.maxNest = some n ∧ nestDepth s.callers < n) : mayNest s = true := by
  unfold mayNest
  obtain h | ⟨n, h, lt⟩ := h
  · rw [h]
  · rw [h]
    exact decide_eq_true lt

theorem mayNest_eq_false {s : State} {n : Nat} (h : s.params.maxNest = some n) (le : n ≤ nestDepth s.callers) :
    mayNest s = false := by
  unfold mayNest
  rw [h]
  exact decide_eq_false (Nat.not_lt.2 le)

/-- An instruction that waits for a handler takes the mark of its wrap along (R410). -/
theorem State.settle_waiting {s : State} {p : Byte} {r : Resume} (h : s.phase = .handler ⟨p, r, false⟩)
    (wrapped : Bool) : s.settle wrapped = s.setPhase (.handler ⟨p, r, wrapped⟩) := by
  cases wrapped with
  | false => exact (State.setPhase_self h).symm
  | true => exact State.settle_handler h

/-- Settles O54: the handler's changes are framed one by one; a nested run is entered where MAX_NEST admits it,
and after a return the rest of the instruction either waits for its next handler or is complete. -/
theorem externalHandlerTurn : Obligations.ExternalHandlerTurn := by
  intro s h hphase reply left
  have turn : step s = handlerStep h s := by
    unfold step
    rw [hphase]
  obtain ⟨applied, phase⟩ := apply_all_frame reply.effects (s.setFree (s.free + 1))
  have frame : BusFrame s left := BusFrame.trans (by constructor <;> rfl) applied
  refine ⟨⟨frame.pc, frame.callers, frame.lastResult, frame.buf, frame.hostCalls, frame.params, phase⟩, ?_⟩
  cases next : reply.next with
  | run a =>
    refine .inl ⟨a, rfl, fun admitted => ?_, fun n hn full => ?_⟩
    · rw [← frame.params, ← frame.callers] at admitted
      rw [turn, handlerStep_run next, if_pos (mayNest_eq_true admitted), State.enter_eq, frame.pc, frame.callers]
      rfl
    · rw [← frame.params] at hn
      rw [← frame.callers] at full
      rw [turn, handlerStep_run next, if_neg (Bool.eq_false_iff.1 (mayNest_eq_false hn full))]
  | ret v =>
    refine .inr ⟨v, rfl, ?_⟩
    intro u
    have resumed : step s = .next (u.settle h.wrapped) := turn.trans (handlerStep_ret next)
    obtain ⟨rest, waits⟩ : BusFrame (left.setPhase .run) u ∧ (u.phase = .run ∨
        ∃ p r, u.phase = .handler ⟨p, r, false⟩ ∧ (ExtRead left.params p ∨ ExtWrite left.params p)) :=
      resumeInstr_frame h.resume v (left.setPhase .run)
    have whole : BusFrame s u := frame.trans (BusFrame.trans (by constructor <;> rfl) rest)
    refine ⟨⟨whole.pc, whole.callers, whole.lastResult, whole.buf, whole.hostCalls, whole.params⟩, ?_⟩
    rcases waits with complete | ⟨p, r, waiting, ext⟩
    · have settled : u.settle true = u.runOffPoint := State.settle_complete (by simp [complete])
      rw [resumed, ← whole.params]
      refine .inr ⟨complete, fun noCheck => ?_, fun wrapped always => ?_, fun wrapped may => ?_⟩
      · obtain unwrapped | never := noCheck
        · rw [unwrapped, State.settle_unwrapped]
        · cases h.wrapped with
          | false => rfl
          | true => rw [settled, State.runOffPoint_never never]
      · rw [wrapped, settled, State.runOffPoint_always always]
      · rw [wrapped, settled]
        exact (State.runOffPoint_may may).imp (congrArg _) (congrArg _)
    · refine .inl ⟨p, r, waiting, ?_, ?_⟩
      · rw [← frame.params]
        exact ext
      · rw [resumed, State.settle_waiting waiting]

/-! ### DEI and DEO at their first access (R408) -/

/-- The state in which DEI or DEO makes its first access: `n` operand bytes are gone, or kept (R407, R408). -/
def accessPoint (m : Mode) (n : Nat) (s : State) : State :=
  (s.advance 1).setStack m.ret ((s.stack m.ret).dropped (if m.keep then 0 else n))

@[simp] theorem accessPoint_params (m : Mode) (n : Nat) (s : State) : (accessPoint m n s).params = s.params := by
  simp [accessPoint]

@[simp] theorem accessPoint_dev (m : Mode) (n : Nat) (s : State) : (accessPoint m n s).dev = s.dev := by
  simp [accessPoint]

@[simp] theorem accessPoint_mem (m : Mode) (n : Nat) (s : State) : (accessPoint m n s).mem = s.mem := by
  simp [accessPoint]

theorem accessPoint_effect (m : Mode) (n : Nat) (s : State) :
    CpuEffect m s (accessPoint m n s) n [] [] (s.pc + 1) ∧ NoStore s (accessPoint m n s) :=
  cpuEffect_active m s _ _ _ _ (StackEffect.drop _ _)

theorem CpuEffect.setDev {m : Mode} {s t : State} {n : Nat} {bs os : List Byte} {pc : Short}
    (h : CpuEffect m s t n bs os pc) (d : Bank 8 Byte) : CpuEffect m s (t.setDev d) n bs os pc :=
  ⟨by simpa using h.active, by simpa using h.other, h.pc, h.outside.setDev d⟩

/-- The bytes of a popped operand are the bytes on the stack. -/
theorem operand_bytes (x : Stack) (short : Bool) (n : Nat) :
    (if short then [hiByte (BitVec.ofNat 16 (x.word short n)), loByte (BitVec.ofNat 16 (x.word short n))]
      else [loByte (BitVec.ofNat 16 (x.word short n))]) =
      if short then [x.under (n + 1), x.under n] else [x.under n] := by
  rw [← wordBytes_toNat, BitVec.toNat_ofNat, Stack.word_mod, wordBytes_word]

theorem loByte_word (x : Stack) (short : Bool) (n : Nat) :
    loByte (BitVec.ofNat 16 (x.word short n)) = x.under n := by
  have h := operand_bytes x short n
  cases short with
  | false => exact List.head_eq_of_cons_eq h
  | true => exact List.head_eq_of_cons_eq (List.tail_eq_of_cons_eq h)

theorem hiByte_word (x : Stack) (n : Nat) : hiByte (BitVec.ofNat 16 (x.word true n)) = x.under (n + 1) :=
  List.head_eq_of_cons_eq (operand_bytes x true n)

theorem exec_dei_byte {m : Mode} (h : m.short = false) (s : State) :
    exec (.dei m) s = .next (devReadByte m.ret ((s.stack m.ret).under 0) (accessPoint m 1 s)) := by
  change execDei m s = _
  simp only [execDei, h, Stack.pop_eq, loByte_word, Stack.keepRestore_dropped]
  rfl

theorem exec_dei_short {m : Mode} (h : m.short = true) (s : State) :
    exec (.dei m) s = .next (devRead2 m.ret ((s.stack m.ret).under 0) (accessPoint m 1 s)) := by
  change execDei m s = _
  simp only [execDei, h, Stack.pop_eq, loByte_word, Stack.keepRestore_dropped]
  rfl

theorem exec_deo_byte {m : Mode} (h : m.short = false) (s : State) :
    exec (.deo m) s = .next (devWrite ((s.stack m.ret).under 0) ((s.stack m.ret).under 1) .writeDone
      (accessPoint m 2 s)) := by
  change execDeo m s = _
  simp only [execDeo, h, Stack.pop_eq, Stack.word_dropped, Stack.dropped_dropped, loByte_word,
    Stack.keepRestore_dropped]
  rfl

theorem exec_deo_short {m : Mode} (h : m.short = true) (s : State) :
    exec (.deo m) s = .next (devWrite2 ((s.stack m.ret).under 0) ((s.stack m.ret).under 2) ((s.stack m.ret).under 1)
      (accessPoint m 3 s)) := by
  change execDeo m s = _
  simp only [execDeo, h, Stack.pop_eq, Stack.word_dropped, Stack.dropped_dropped, loByte_word, hiByte_word,
    Stack.keepRestore_dropped]
  rfl

/-- Settles O28: up to its first access DEI or DEO is `accessPoint`, and each access is the one by the handler at
its port. -/
theorem externalPortsCallHandlers : Obligations.ExternalPortsCallHandlers := by
  intro m s x p
  refine ⟨fun ext => ?_, fun short first ext => ?_, fun ext => ?_, fun short first ext => ?_⟩
  · obtain ⟨cpu, store⟩ := accessPoint_effect m 1 s
    rw [← accessPoint_params m 1] at ext
    cases width : m.short with
    | false => exact ⟨_, exec_dei_byte width s, _, cpu, store, devReadByte_ext ext m.ret⟩
    | true => exact ⟨_, exec_dei_short width s, _, cpu, store, devRead2_ext ext m.ret⟩
  · obtain ⟨cpu, store⟩ := accessPoint_effect m 1 s
    rw [← accessPoint_params m 1] at first ext
    rw [← (devRead_frame p _).1.params] at ext
    exact ⟨_, exec_dei_short short s, _, cpu, store, (devRead2_not_ext first _).trans (devReadLo_ext ext _ _)⟩
  · have stored : ∀ v q, (s.dev.wr p v).rd q = if q = p then v else s.dev.rd q := fun v q => by
      rw [Bank.rd_wr]
      simp only [eq_comm]
    cases width : m.short with
    | false =>
      obtain ⟨cpu, -⟩ := accessPoint_effect m 2 s
      rw [← accessPoint_params m 2] at ext
      refine ⟨_, exec_deo_byte width s, _, cpu.setDev (s.dev.wr p (x.under 1)), accessPoint_mem m 2 s, stored _, ?_⟩
      rw [devWrite_ext ext, accessPoint_dev]
      rfl
    | true =>
      obtain ⟨cpu, -⟩ := accessPoint_effect m 3 s
      rw [← accessPoint_params m 3] at ext
      refine ⟨_, exec_deo_short width s, _, cpu.setDev (s.dev.wr p (x.under 2)), accessPoint_mem m 3 s, stored _, ?_⟩
      rw [devWrite2_ext ext, devWrite_ext ext, accessPoint_dev]
      rfl
  · obtain ⟨cpu, store⟩ := accessPoint_effect m 3 s
    rw [← accessPoint_params m 3] at first ext
    rw [← (devWrite_frame p (x.under 2) .writeDone _).1.params] at ext
    have runs := exec_deo_short short s
    rw [devWrite2_not_ext first] at runs
    refine ⟨_, runs, _, cpu, store, rfl, ?_, ?_, ?_⟩
    · rw [devWrite_ext ext]
      rfl
    · simp [x]
    · simp [Bank.rd_wr, x, p]

/-! ### The keep bit and the stack pointers (R406, R407, R413) -/

theorem Stack.dropped_ptr (x : Stack) (n : Nat) : (x.dropped n).ptr = x.ptr - BitVec.ofNat 8 n := rfl

theorem Stack.pop_snd (x : Stack) (short : Bool) : (x.pop short).2 = x.dropped (width short) := by
  rw [Stack.pop_eq]

@[simp] theorem Stack.push_ptr (x : Stack) (short : Bool) (v : Short) :
    (x.push short v).ptr = x.ptr + BitVec.ofNat 8 (width short) := by
  obtain ⟨h, -⟩ := (StackEffect.refl x).push (by simp) short v
  simpa [wordBytes_length] using h

theorem resultBytes_length (short : Bool) (vs : List Short) :
    (resultBytes short vs).length = vs.length * width short := by
  simp [resultBytes, wordBytes_length]

/-- A run of the operation `f` from `s`, in one shape for both values of the keep bit (R406, R407): all but the
active stack becomes as in `rest`, and there `results` of width `wide` are pushed in place of the operand bytes or,
with k = 1, above them. The bytes are the ones `use` counts, unless an external handler runs next. -/
structure KeepLaw (f : Mode → Instr) (ret short : Bool) (use : StackUse) (s rest : State) (wide : Bool)
    (results : List Short) : Prop where
  runs : ∀ k, exec (f ⟨k, ret, short⟩) s = .next (rest.setStack ret
    ((Stack.keepRestore k (s.stack ret) ((s.stack ret).dropped use.popped)).pushAll wide results))
  few : results.length ≤ 3 := by simp
  pushed : use.pushed = results.length * width wide ∨ ∃ h, rest.phase = .handler h
  other : (rest.stack (!ret)).ptr = (s.stack (!ret)).ptr + BitVec.ofNat 8 use.other := by simp

/-- In every mode the operation `f` has a `KeepLaw` from every state, with the use of the stacks that `stackUse` says
for either value of the keep bit. -/
def KeepLawful (f : Mode → Instr) : Prop :=
  ∀ ret short : Bool, ∃ use : StackUse, (∀ k, stackUse (f ⟨k, ret, short⟩) = { use with mode := ⟨k, ret, short⟩ }) ∧
    ∀ s, ∃ rest wide results, KeepLaw f ret short use s rest wide results

/-! #### The operand forms -/

section
variable {f : Mode → Instr}

theorem keepLawful_withOne {g : Short → List Short} (n : Nat) (hexec : ∀ m s, exec (f m) s = .next (withOne m g s))
    (huse : ∀ m, stackUse (f m) = ⟨m, width m.short, n * width m.short, 0⟩) (hlen : ∀ a, (g a).length = n)
    (hfew : n ≤ 3) : KeepLawful f := fun ret short =>
  ⟨⟨⟨false, ret, short⟩, width short, n * width short, 0⟩, fun _ => huse _, fun s =>
    let a := (s.stack ret).pop short
    ⟨s.advance 1, short, g a.1, {
      runs := fun k => by simp only [hexec, withOne, Stack.pop_snd, a]
      few := (hlen _).trans_le hfew
      pushed := .inl (by rw [hlen]) }⟩⟩

theorem keepLawful_withTwo {g : Short → Short → List Short} (n : Nat)
    (hexec : ∀ m s, exec (f m) s = .next (withTwo m g s))
    (huse : ∀ m, stackUse (f m) = ⟨m, 2 * width m.short, n * width m.short, 0⟩) (hlen : ∀ a b, (g a b).length = n)
    (hfew : n ≤ 3) : KeepLawful f := fun ret short =>
  ⟨⟨⟨false, ret, short⟩, 2 * width short, n * width short, 0⟩, fun _ => huse _, fun s =>
    let b := (s.stack ret).pop short
    let a := b.2.pop short
    ⟨s.advance 1, short, g a.1 b.1, {
      runs := fun k => by simp only [hexec, withTwo, Stack.pop_snd, Stack.dropped_dropped, ← Nat.two_mul, a, b]
      few := (hlen _ _).trans_le hfew
      pushed := .inl (by rw [hlen]) }⟩⟩

theorem keepLawful_binary {op : Short → Short → Short}
    (hexec : ∀ m s, exec (f m) s = .next (withTwo m (fun a b => [op a b]) s))
    (huse : ∀ m, stackUse (f m) = ⟨m, 2 * width m.short, width m.short, 0⟩) : KeepLawful f :=
  keepLawful_withTwo 1 hexec (fun m => by rw [huse, one_mul]) (fun _ _ => rfl) (by decide)

theorem keepLawful_withThree {g : Short → Short → Short → List Short}
    (hexec : ∀ m s, exec (f m) s = .next (withThree m g s))
    (huse : ∀ m, stackUse (f m) = ⟨m, 3 * width m.short, 3 * width m.short, 0⟩) (hlen : ∀ a b c, (g a b c).length = 3) :
    KeepLawful f := fun ret short =>
  ⟨⟨⟨false, ret, short⟩, 3 * width short, 3 * width short, 0⟩, fun _ => huse _, fun s =>
    let c := (s.stack ret).pop short
    let b := c.2.pop short
    let a := b.2.pop short
    have three : 2 * width short + width short = 3 * width short := by omega
    ⟨s.advance 1, short, g a.1 b.1 c.1, {
      runs := fun k => by
        simp only [hexec, withThree, Stack.pop_snd, Stack.dropped_dropped, ← Nat.two_mul, three, a, b, c]
      few := (hlen _ _ _).le
      pushed := .inl (by rw [hlen]) }⟩⟩

theorem keepLawful_compareTwo {rel : Short → Short → Bool} (hexec : ∀ m s, exec (f m) s = .next (compareTwo m rel s))
    (huse : ∀ m, stackUse (f m) = ⟨m, 2 * width m.short, 1, 0⟩) : KeepLawful f := fun ret short =>
  ⟨⟨⟨false, ret, short⟩, 2 * width short, 1, 0⟩, fun _ => huse _, fun s =>
    let b := (s.stack ret).pop short
    let a := b.2.pop short
    ⟨s.advance 1, false, [boolByte (rel a.1 b.1)], {
      runs := fun k => by
        simp only [hexec, compareTwo, Stack.pop_snd, Stack.dropped_dropped, ← Nat.two_mul, a, b]
        rfl
      pushed := .inl rfl }⟩⟩

theorem keepLawful_loadOp {wide : Bool} {value : Bool → State → Short → Short}
    (hexec : ∀ m s, exec (f m) s = .next (loadOp m wide (value m.short s) s))
    (huse : ∀ m, stackUse (f m) = ⟨m, width wide, width m.short, 0⟩) : KeepLawful f := fun ret short =>
  ⟨⟨⟨false, ret, short⟩, width wide, width short, 0⟩, fun _ => huse _, fun s =>
    let a := (s.stack ret).pop wide
    ⟨s.advance 1, short, [value short s a.1], {
      runs := fun k => by
        simp only [hexec, loadOp, Stack.pop_snd, a]
        rfl
      pushed := .inl (one_mul _).symm }⟩⟩

theorem keepLawful_storeOp {wide : Bool} {store : Bool → State → Short → Short → Memory}
    (hexec : ∀ m s, exec (f m) s = .next (storeOp m wide (store m.short s) s))
    (huse : ∀ m, stackUse (f m) = ⟨m, width wide + width m.short, 0, 0⟩) : KeepLawful f := fun ret short =>
  ⟨⟨⟨false, ret, short⟩, width wide + width short, 0, 0⟩, fun _ => huse _, fun s =>
    let a := (s.stack ret).pop wide
    let v := a.2.pop short
    ⟨(s.advance 1).setMem (store short s a.1 v.1), false, [], {
      runs := fun k => by
        simp only [hexec, storeOp, Stack.pop_snd, Stack.dropped_dropped, State.setStack_setMem, a, v]
        rfl
      pushed := .inl rfl }⟩⟩

end

/-! #### Operations with a form of their own -/

theorem keepLawful_sft : KeepLawful .sft := fun ret short =>
  ⟨⟨⟨false, ret, short⟩, 1 + width short, width short, 0⟩, fun _ => rfl, fun s =>
    let n := (s.stack ret).pop false
    let a := n.2.pop short
    ⟨s.advance 1, short, [nibbleShift a.1 n.1], {
      runs := fun k => by
        change execSft _ s = _
        simp only [execSft, Stack.pop_snd, Stack.dropped_dropped, a, n]
        rfl
      pushed := .inl (one_mul _).symm }⟩⟩

theorem keepLawful_jmp : KeepLawful .jmp := fun ret short =>
  ⟨⟨⟨false, ret, short⟩, width short, 0, 0⟩, fun _ => rfl, fun s =>
    let d := (s.stack ret).pop short
    ⟨s.setPc (target short (s.pc + 1) d.1), false, [], {
      runs := fun k => by
        change execJmp _ s = _
        simp only [execJmp, Stack.pop_snd, State.setStack_setPc, d]
        rfl
      pushed := .inl rfl }⟩⟩

theorem keepLawful_jcn : KeepLawful .jcn := fun ret short =>
  ⟨⟨⟨false, ret, short⟩, width short + 1, 0, 0⟩, fun _ => rfl, fun s =>
    let d := (s.stack ret).pop short
    let c := d.2.pop false
    ⟨s.setPc (if condition c.1 then target short (s.pc + 1) d.1 else s.pc + 1), false, [], {
      runs := fun k => by
        change execJcn _ s = _
        simp only [execJcn, Stack.pop_snd, Stack.dropped_dropped, State.setStack_setPc, c, d]
        rfl
      pushed := .inl rfl }⟩⟩

theorem keepLawful_jsr : KeepLawful .jsr := fun ret short =>
  ⟨⟨⟨false, ret, short⟩, width short, 0, 2⟩, fun _ => rfl, fun s =>
    let d := (s.stack ret).pop short
    ⟨(s.setStack (!ret) ((s.stack (!ret)).push true (s.pc + 1))).setPc (target short (s.pc + 1) d.1), false, [], {
      runs := fun k => by
        change execJsr _ s = _
        simp only [execJsr, Stack.pop_snd, State.setStack_comm, State.setStack_setPc, d]
        rfl
      pushed := .inl rfl
      other := by simp [width] }⟩⟩

theorem keepLawful_sth : KeepLawful .sth := fun ret short =>
  ⟨⟨⟨false, ret, short⟩, width short, 0, width short⟩, fun _ => rfl, fun s =>
    let a := (s.stack ret).pop short
    ⟨(s.advance 1).setStack (!ret) ((s.stack (!ret)).push short a.1), false, [], {
      runs := fun k => by
        change execSth _ s = _
        simp only [execSth, Stack.pop_snd, State.setStack_comm, a]
        rfl
      pushed := .inl rfl }⟩⟩

/-! #### DEI and DEO -/

/-- A device read that pushes `n` bytes where it finds the active stack's pointer, or waits for an external
handler; `rest` and what is pushed do not depend on that stack. -/
def PushesRead (ret : Bool) (read : State → State) (n : Nat) (t : State) : Prop :=
  ∃ (rest : State) (wide : Bool) (results : List Short),
    (∀ x, read (t.setStack ret x) = rest.setStack ret (x.pushAll wide results)) ∧
    results.length ≤ 3 ∧ (n = results.length * width wide ∨ ∃ h, rest.phase = .handler h) ∧
    rest.stack (!ret) = t.stack (!ret)

theorem devReadByte_pushes (ret : Bool) (p : Byte) (t : State) : PushesRead ret (devReadByte ret p) 1 t := by
  by_cases ext : ExtRead t.params p
  · refine ⟨t.setPhase (.handler ⟨p, .readByte ret, false⟩), false, [], fun x => ?_, by simp, .inr ⟨_, rfl⟩, by simp⟩
    rw [devReadByte_ext (by simpa using ext), State.setStack_setPhase]
    rfl
  · refine ⟨(devRead p t).2, false, [(devRead p t).1.setWidth 16], fun x => ?_, by simp, .inl rfl, by simp⟩
    rw [devReadByte_not_ext (by simpa using ext), devRead_setStack, State.setStack_setStack,
      State.stack_setStack_same]
    rfl

theorem devReadLo_pushes (ret : Bool) (hi p : Byte) (t : State) : PushesRead ret (devReadLo ret hi p) 2 t := by
  by_cases ext : ExtRead t.params p
  · refine ⟨t.setPhase (.handler ⟨p, .readLo ret hi, false⟩), true, [], fun x => ?_, by simp, .inr ⟨_, rfl⟩, by simp⟩
    rw [devReadLo_ext (by simpa using ext), State.setStack_setPhase]
    rfl
  · refine ⟨(devRead p t).2, true, [hi ++ (devRead p t).1], fun x => ?_, by simp, .inl rfl, by simp⟩
    rw [devReadLo_not_ext (by simpa using ext), devRead_setStack, State.setStack_setStack,
      State.stack_setStack_same]
    rfl

theorem devRead2_pushes (ret : Bool) (p : Byte) (t : State) : PushesRead ret (devRead2 ret p) 2 t := by
  by_cases ext : ExtRead t.params p
  · refine ⟨t.setPhase (.handler ⟨p, .readHi ret (p + 1), false⟩), true, [], fun x => ?_, by simp, .inr ⟨_, rfl⟩,
      by simp⟩
    rw [devRead2_ext (by simpa using ext), State.setStack_setPhase]
    rfl
  · obtain ⟨rest, wide, results, runs, few, pushed, other⟩ :=
      devReadLo_pushes ret (devRead p t).1 (p + 1) (devRead p t).2
    refine ⟨rest, wide, results, fun x => ?_, few, pushed, other.trans (devRead_stack p t _)⟩
    rw [devRead2_not_ext (by simpa using ext), devRead_setStack]
    exact runs x

theorem keepLawful_dei : KeepLawful .dei := by
  refine fun ret short => ⟨⟨⟨false, ret, short⟩, 1, width short, 0⟩, fun _ => rfl, fun s => ?_⟩
  cases short with
  | false =>
    obtain ⟨rest, wide, results, runs, few, pushed, other⟩ :=
      devReadByte_pushes ret ((s.stack ret).under 0) (s.advance 1)
    refine ⟨rest, wide, results, fun k => ?_, few, pushed, by simp [other]⟩
    rw [exec_dei_byte rfl, accessPoint, runs, Stack.keepRestore_dropped]
  | true =>
    obtain ⟨rest, wide, results, runs, few, pushed, other⟩ :=
      devRead2_pushes ret ((s.stack ret).under 0) (s.advance 1)
    refine ⟨rest, wide, results, fun k => ?_, few, pushed, by simp [other]⟩
    rw [exec_dei_short rfl, accessPoint, runs, Stack.keepRestore_dropped]

theorem keepLawful_deo : KeepLawful .deo := by
  refine fun ret short => ⟨⟨⟨false, ret, short⟩, 1 + width short, 0, 0⟩, fun _ => rfl, fun s => ?_⟩
  let x := s.stack ret
  cases short with
  | false =>
    refine ⟨devWrite (x.under 0) (x.under 1) .writeDone (s.advance 1), false, [],
      { runs := fun k => ?_, pushed := .inl rfl }⟩
    rw [exec_deo_byte rfl, accessPoint, devWrite_setStack, Stack.keepRestore_dropped]
    rfl
  | true =>
    refine ⟨devWrite2 (x.under 0) (x.under 2) (x.under 1) (s.advance 1), false, [],
      { runs := fun k => ?_, pushed := .inl rfl }⟩
    rw [exec_deo_short rfl, accessPoint, devWrite2_setStack, Stack.keepRestore_dropped]
    rfl

/-! #### The table of R304 -/

theorem keepLawful_row : ∀ row ∈ opcodeMap, KeepLawful row.2 := by
  have inc : KeepLawful .inc :=
    keepLawful_withOne 1 (fun _ _ => rfl) (fun m => by rw [one_mul]; rfl) (fun _ => rfl) (by decide)
  have pop : KeepLawful .pop :=
    keepLawful_withOne 0 (fun _ _ => rfl) (fun m => by rw [zero_mul]; rfl) (fun _ => rfl) (by decide)
  have nip : KeepLawful .nip := keepLawful_binary (fun _ _ => rfl) (fun _ => rfl)
  have swp : KeepLawful .swp := keepLawful_withTwo 2 (fun _ _ => rfl) (fun _ => rfl) (fun _ _ => rfl) (by decide)
  have rot : KeepLawful .rot := keepLawful_withThree (fun _ _ => rfl) (fun _ => rfl) (fun _ _ _ => rfl)
  have dup : KeepLawful .dup := keepLawful_withOne 2 (fun _ _ => rfl) (fun _ => rfl) (fun _ => rfl) (by decide)
  have ovr : KeepLawful .ovr := keepLawful_withTwo 3 (fun _ _ => rfl) (fun _ => rfl) (fun _ _ => rfl) (by decide)
  have equ : KeepLawful .equ := keepLawful_compareTwo (fun _ _ => rfl) (fun _ => rfl)
  have neq : KeepLawful .neq := keepLawful_compareTwo (fun _ _ => rfl) (fun _ => rfl)
  have gth : KeepLawful .gth := keepLawful_compareTwo (fun _ _ => rfl) (fun _ => rfl)
  have lth : KeepLawful .lth := keepLawful_compareTwo (fun _ _ => rfl) (fun _ => rfl)
  have ldz : KeepLawful .ldz := keepLawful_loadOp
    (value := fun short s a => zpRead s.mem short (loByte a)) (fun _ _ => rfl) (fun _ => rfl)
  have stz : KeepLawful .stz := keepLawful_storeOp
    (store := fun short s a v => zpWrite s.mem short (loByte a) v) (fun _ _ => rfl) (fun _ => rfl)
  have ldr : KeepLawful .ldr := keepLawful_loadOp
    (value := fun short s d => memRead s.mem short (relAddr (s.pc + 1) d)) (fun _ _ => rfl) (fun _ => rfl)
  have str : KeepLawful .str := keepLawful_storeOp
    (store := fun short s d v => memWrite s.mem short (relAddr (s.pc + 1) d) v) (fun _ _ => rfl) (fun _ => rfl)
  have lda : KeepLawful .lda := keepLawful_loadOp
    (value := fun short s a => memRead s.mem short a) (fun _ _ => rfl) (fun _ => rfl)
  have sta : KeepLawful .sta := keepLawful_storeOp
    (store := fun short s a v => memWrite s.mem short a v) (fun _ _ => rfl) (fun _ => rfl)
  have add : KeepLawful .add := keepLawful_binary (fun _ _ => rfl) (fun _ => rfl)
  have sub : KeepLawful .sub := keepLawful_binary (fun _ _ => rfl) (fun _ => rfl)
  have mul : KeepLawful .mul := keepLawful_binary (fun _ _ => rfl) (fun _ => rfl)
  have div : KeepLawful .div := keepLawful_binary (fun _ _ => rfl) (fun _ => rfl)
  have and : KeepLawful .and := keepLawful_binary (fun _ _ => rfl) (fun _ => rfl)
  have ora : KeepLawful .ora := keepLawful_binary (fun _ _ => rfl) (fun _ => rfl)
  have eor : KeepLawful .eor := keepLawful_binary (fun _ _ => rfl) (fun _ => rfl)
  intro row hrow
  fin_cases hrow
  exacts [inc, pop, nip, swp, rot, dup, ovr, equ, neq, gth, lth, keepLawful_jmp, keepLawful_jcn, keepLawful_jsr,
    keepLawful_sth, ldz, stz, ldr, str, lda, sta, keepLawful_dei, keepLawful_deo, add, sub, mul, div, and, ora, eor,
    keepLawful_sft]

theorem keepLawful_operation : ∀ f ∈ opcodeMap.map Prod.snd, KeepLawful f :=
  List.forall_mem_map.2 keepLawful_row

/-! #### The keep law (R407, R408) -/

/-- The active stack after either run, from the stack before it. -/
theorem KeepLaw.active {f : Mode → Instr} {ret short : Bool} {use : StackUse} {s rest : State} {wide : Bool}
    {results : List Short} (law : KeepLaw f ret short use s rest wide results) (k : Bool) :
    StackEffect (s.stack ret)
      ((Stack.keepRestore k (s.stack ret) ((s.stack ret).dropped use.popped)).pushAll wide results)
      (if k then 0 else use.popped) (resultBytes wide results) := by
  have few := law.few
  exact StackEffect.generic _ _ _ _ _ (by omega)

theorem opByte_of_keep (op : Byte) (h : op.getLsbD 7 = true) :
    op = opByte ⟨true, op.getLsbD 6, op.getLsbD 5⟩ (op.extractLsb' 0 5) := by
  rw [← h]
  exact (opByte_fields op).symm

theorem opByte_clear_keep (op : Byte) :
    op &&& 0x7F = opByte ⟨false, op.getLsbD 6, op.getLsbD 5⟩ (op.extractLsb' 0 5) := by
  revert op
  decide

theorem exists_opcodeMap_row : ∀ base : BitVec 5, base ≠ 0 → ∃ row ∈ opcodeMap, row.1 = base := by
  have bases : ∀ base : BitVec 5, base ≠ 0 → base ∈ opcodeMap.map Prod.fst := by decide
  exact fun base h => List.mem_map.1 (bases base h)

/-- Settles O8: the two opcodes are one operation of the table, whose law has one `rest` and the same results for both
values of the keep bit. -/
theorem keepModeLeavesOperands : Obligations.KeepModeLeavesOperands := by
  intro op b1 b2 s t u hkeep hbase ht hu ret
  obtain ⟨row, hrow, hbase⟩ := exists_opcodeMap_row _ hbase
  have kept : decodeOp op b1 b2 = row.2 ⟨true, ret, op.getLsbD 5⟩ := by
    rw [← decodeOp_opByte_row _ b1 b2 _ hrow, hbase, ← opByte_of_keep op hkeep]
  have consumed : decodeOp (op &&& 0x7F) b1 b2 = row.2 ⟨false, ret, op.getLsbD 5⟩ := by
    rw [← decodeOp_opByte_row _ b1 b2 _ hrow, hbase, ← opByte_clear_keep]
  obtain ⟨use, huse, law⟩ := keepLawful_row row hrow ret (op.getLsbD 5)
  obtain ⟨rest, wide, results, law⟩ := law s
  rw [kept] at ht ⊢
  rw [consumed] at hu
  cases (law.runs true).symm.trans ht
  cases (law.runs false).symm.trans hu
  refine ⟨by simp, resultBytes wide results, ?_, ?_⟩
  · simpa using law.active true
  · rw [huse true]
    simpa using law.active false

/-! #### The stack-pointer law (R413) -/

/-- What R413 says of the two pointers. -/
def PointersMoved (u : StackUse) (s t : State) : Prop :=
  (t.stack u.mode.ret).ptr =
      (s.stack u.mode.ret).ptr - BitVec.ofNat 8 (if u.mode.keep then 0 else u.popped) + BitVec.ofNat 8 u.pushed ∧
    (t.stack (!u.mode.ret)).ptr = (s.stack (!u.mode.ret)).ptr + BitVec.ofNat 8 u.other

theorem KeepLawful.pointersMoved {f : Mode → Instr} (hf : KeepLawful f) {m : Mode} {s t : State}
    (ht : exec (f m) s = .next t) (complete : ∀ h, t.phase ≠ .handler h) : PointersMoved (stackUse (f m)) s t := by
  obtain ⟨k, ret, short⟩ := m
  obtain ⟨use, huse, law⟩ := hf ret short
  obtain ⟨rest, wide, results, law⟩ := law s
  cases (law.runs k).symm.trans ht
  have pushed : use.pushed = (resultBytes wide results).length := by
    rw [resultBytes_length]
    exact law.pushed.resolve_right fun ⟨h, waits⟩ => complete h (by simpa using waits)
  obtain ⟨ptr, -⟩ := law.active k
  rw [huse, PointersMoved]
  dsimp only
  rw [State.stack_setStack_same, State.stack_setStack_other, pushed]
  exact ⟨ptr, law.other⟩

theorem leave_stack (s : State) (r : RunResult) (ret : Bool) : (s.leave r).stack ret = s.stack ret := by
  rw [State.leave_eq]
  rfl

/-- Settles O7, by the instruction: of base operation 0 each form by its one pop or push, and an operation of the
table by its law. -/
theorem stackPointerLaw : Obligations.StackPointerLaw := by
  intro i s t ht complete
  change PointersMoved (stackUse i) s t
  cases i
  case brk =>
    cases ht
    simp [PointersMoved, stackUse, leave_stack]
  case jci d =>
    cases ht
    simp [PointersMoved, stackUse, State.stack, Stack.pop_snd, Stack.dropped_ptr, width]
  case jmi d =>
    cases ht
    simp [PointersMoved, stackUse]
  case jsi | lit | lit2 | litr | lit2r =>
    cases ht
    simp [PointersMoved, stackUse, State.stack, width]
  all_goals exact KeepLawful.pointersMoved (keepLawful_operation _ (by simp [opcodeMap])) ht complete

end Sys2Proof.Machine
end

section
/-! The family 41_immediate.md: the literals, the jumps by an immediate displacement, and BRK. -/

namespace Sys2Proof.Machine

/-! ### An instruction that changes one stack and the program counter -/

theorem Runs.of_active {i : Instr} {s : State} {m : Mode} {x : Stack} {pc : Short} {drop : Nat} {bs : List Byte}
    (runs : exec i s = .next ((s.setPc pc).setStack m.ret x))
    (effect : StackEffect (s.stack m.ret) x (if m.keep then 0 else drop) bs) :
    Runs i s (fun t => CpuEffect m s t drop bs [] pc ∧ NoStore s t) :=
  ⟨_, runs, cpuEffect_active m s x pc drop bs effect⟩

/-- A push of one value whose width `wide` need not be the mode's: JSI pushes a short with s = 0 (R453). -/
theorem StackEffect.pushed (x : Stack) (wide : Bool) (v : Short) :
    StackEffect x (x.push wide v) 0 (wordBytes wide v.toNat) :=
  (StackEffect.refl x).push (by simp) wide v

/-! ### The literals (R454) -/

/-- Settles O18: each literal is one push on the stack of bit 6, the program counter behind its bytes. -/
theorem literals : Obligations.Literals := by
  intro v w s
  have byte (x : Stack) : StackEffect x (x.push false (v.setWidth 16)) 0 [v] := by
    simpa only [wordBytes_byte] using StackEffect.pushed x false (v.setWidth 16)
  have lit : exec (.lit v) s = .next ((s.setPc (s.pc + 2)).setStack false (s.wst.push false (v.setWidth 16))) := rfl
  have litr : exec (.litr v) s = .next ((s.setPc (s.pc + 2)).setStack true (s.rst.push false (v.setWidth 16))) := rfl
  have lit2 : exec (.lit2 w) s = .next ((s.setPc (s.pc + 3)).setStack false (s.wst.push true w)) := rfl
  have lit2r : exec (.lit2r w) s = .next ((s.setPc (s.pc + 3)).setStack true (s.rst.push true w)) := rfl
  exact ⟨.of_active lit (byte s.wst), .of_active litr (byte s.rst), .of_active lit2 (.pushed s.wst true w),
    .of_active lit2r (.pushed s.rst true w)⟩

/-! ### The displacement and the condition of the immediate jumps (R306, R451 to R453) -/

/-- How far behind the opcode's address the base of a displacement is (R306). -/
def baseOffset (r : ImmRelBase) : Nat :=
  match r with
  | .afterOpcode => 1
  | .afterOperand => 3

theorem dispBase_eq (c : Params) (a : Short) : dispBase c a = a + BitVec.ofNat 16 (baseOffset c.immRelBase) := by
  rw [dispBase]
  cases c.immRelBase <;> rfl

/-- The target of JCI, JMI and JSI, as a number. -/
theorem dispBase_add (c : Params) (a disp : Short) :
    dispBase c a + disp = BitVec.ofNat 16 ((a.toNat + baseOffset c.immRelBase + disp.toNat) % 65536) := by
  rw [dispBase_eq]
  apply BitVec.eq_of_toNat_eq
  simp [BitVec.toNat_add]

/-- JCI consumes its condition byte whether or not it jumps (R451). -/
theorem exec_jci (disp : Short) (s : State) :
    exec (.jci disp) s = .next ((s.setPc (if s.wst.word false 0 ≠ 0 then dispBase s.params s.pc + disp
      else s.pc + 3)).setStack false (s.wst.dropped 1)) := by
  have small : s.wst.word false 0 < 65536 := lt_of_lt_of_le (s.wst.word_lt false 0) (modulus_le false)
  change execJci disp s = _
  simp only [execJci, Stack.pop_eq, condition_ofNat _ small, decide_eq_true_eq]
  rfl

/-- Settles O17: JCI by its condition, JMI without a stack effect, JSI by its one push. -/
theorem immediateJumps : Obligations.ImmediateJumps := by
  intro disp s base goal after
  have target : dispBase s.params s.pc + disp = goal := dispBase_add s.params s.pc disp
  have jci := exec_jci disp s
  have jmi : exec (.jmi disp) s = .next ((s.setPc (dispBase s.params s.pc + disp)).setStack true s.rst) := rfl
  have jsi : exec (.jsi disp) s =
      .next ((s.setPc (dispBase s.params s.pc + disp)).setStack true (s.rst.push true (s.pc + 3))) := rfl
  rw [target] at jci jmi jsi
  refine ⟨fun taken => ?_, fun not_taken => ?_, .of_active jmi (.refl s.rst), ?_⟩
  · rw [if_pos taken] at jci
    exact .of_active jci (.drop s.wst 1)
  · rw [if_neg (not_not.2 not_taken)] at jci
    exact .of_active jci (.drop s.wst 1)
  · have return_address : (s.pc + 3).toNat = (s.pc.toNat + 3) % 65536 := BitVec.toNat_add s.pc 3
    rw [← return_address]
    exact .of_active jsi (.pushed s.rst true (s.pc + 3))

/-! ### BRK (R450) -/

/-- Settles O19: BRK passes its byte and leaves the invocation with result 0. -/
theorem brkReturnsToCaller : Obligations.BrkReturnsToCaller := by
  intro s
  have brk : exec .brk s = .next ((s.advance 1).leave .halted) := rfl
  obtain ⟨host, render, handler⟩ := invocationEndsForItsCaller (s.advance 1) .halted
  rw [brk]
  exact ⟨fun h => congrArg _ (host h), fun pt rest h => congrArg _ (render pt rest h),
    fun k pc rest h => congrArg _ (handler k pc rest h)⟩

end Sys2Proof.Machine
end

section
/-! The family 42_alu.md: arithmetic, bitwise operations and comparisons. -/

namespace Sys2Proof.Machine

/-! ### Operands and results as numbers (R403, R513) -/

theorem Stack.word_toNat (x : Stack) (short : Bool) (n : Nat) :
    (BitVec.ofNat 16 (x.word short n)).toNat = x.word short n := by
  rw [BitVec.toNat_ofNat, Stack.word_mod]

/-- The wrap of the shorts the model computes with does not change a value modulo 2^(8W). -/
theorem mod_short_modEq (short : Bool) (n : Nat) : n % 65536 ≡ n [MOD modulus short] :=
  Nat.mod_mod_of_dvd n (modulus_dvd short)

/-- A pushed result is its value modulo 2^(8W). -/
theorem resultBytes_single {short : Bool} {r : Short} {v : Nat}
    (value : r.toNat ≡ v [MOD modulus short]) : resultBytes short [r] = wordBytes short v := by
  rw [← wordBytes_congr short _ _ value]
  exact List.append_nil _

/-! ### An operation of one result, from its value -/

section
variable {i : Instr} {m : Mode} {s : State}

/-- A unary operation pushes what its function is on numbers, modulo 2^(8W). -/
theorem Runs.of_unary {f : Short → Short} {g : Nat → Nat} (runs : exec i s = .next (withOne m (fun a => [f a]) s))
    (value : ∀ a : Short, (f a).toNat ≡ g a.toNat [MOD modulus m.short]) :
    Runs i s (fun t => CpuEffect m s t (width m.short) (wordBytes m.short (g ((s.stack m.ret).word m.short 0))) []
      (s.pc + 1) ∧ NoStore s t) := by
  have effect := withOne_effect m (fun a => [f a]) s (by simp)
  rw [resultBytes_single (value _), Stack.word_toNat] at effect
  exact ⟨_, runs, effect⟩

/-- A binary operation pushes what its function is on numbers, modulo 2^(8W); the second operand is below
2^(8W). -/
theorem Runs.of_binary {f : Short → Short → Short} {g : Nat → Nat → Nat}
    (runs : exec i s = .next (withTwo m (fun a b => [f a b]) s))
    (value : ∀ a b : Short, b.toNat < modulus m.short →
      (f a b).toNat ≡ g a.toNat b.toNat [MOD modulus m.short]) :
    Runs i s (fun t => CpuEffect m s t (2 * width m.short) (wordBytes m.short
      (g ((s.stack m.ret).word m.short (width m.short)) ((s.stack m.ret).word m.short 0))) [] (s.pc + 1) ∧
      NoStore s t) := by
  have small : (BitVec.ofNat 16 ((s.stack m.ret).word m.short 0)).toNat < modulus m.short := by
    rw [Stack.word_toNat]
    exact Stack.word_lt _ _ _
  have effect := withTwo_effect m (fun a b => [f a b]) s (by simp)
  rw [resultBytes_single (value _ _ small), Stack.word_toNat, Stack.word_toNat] at effect
  exact ⟨_, runs, effect⟩

/-- A comparison pushes the truth of its relation on numbers. -/
theorem Runs.of_comparison {rel : Short → Short → Bool} {p : Nat → Nat → Prop} [DecidableRel p]
    (runs : exec i s = .next (compareTwo m rel s)) (truth : ∀ a b : Short, rel a b = true ↔ p a.toNat b.toNat) :
    Runs i s (fun t => CpuEffect m s t (2 * width m.short)
      [if p ((s.stack m.ret).word m.short (width m.short)) ((s.stack m.ret).word m.short 0) then 1 else 0] []
      (s.pc + 1) ∧ NoStore s t) := by
  have effect := compareTwo_effect m rel s
  simp only [truth, Stack.word_toNat] at effect
  exact ⟨_, runs, effect⟩

end

/-! ### Arithmetic (R500 to R504) -/

theorem add_toNat_modEq (short : Bool) (a b : Short) : (a + b).toNat ≡ a.toNat + b.toNat [MOD modulus short] := by
  rw [BitVec.toNat_add]
  exact mod_short_modEq short _

theorem mul_toNat_modEq (short : Bool) (a b : Short) : (a * b).toNat ≡ a.toNat * b.toNat [MOD modulus short] := by
  rw [BitVec.toNat_mul]
  exact mod_short_modEq short _

/-- A difference may borrow from the modulus of its own width, which divides the one of a short. -/
theorem sub_toNat_modEq (short : Bool) (a b : Short) (hb : b.toNat < modulus short) :
    (a - b).toNat ≡ a.toNat + modulus short - b.toNat [MOD modulus short] := by
  rw [BitVec.toNat_sub]
  cases short <;> simp only [modulus, Nat.ModEq, Bool.false_eq_true, if_false, if_true] at hb ⊢ <;> omega

theorem divide_toNat (a b : Short) : (divide a b).toNat = if b.toNat = 0 then 0 else a.toNat / b.toNat := by
  have zero : b = 0 ↔ b.toNat = 0 := BitVec.toNat_inj.symm
  simp only [divide, zero]
  split
  · rfl
  · exact BitVec.toNat_udiv

/-- Settles O9: each operation by what it is on numbers, modulo 2^(8W). -/
theorem arithmeticResults : Obligations.ArithmeticResults := by
  intro m s x W M a b
  have wrap (n : Nat) : n ≡ n % M [MOD M] := (Nat.mod_modEq n M).symm
  refine ⟨?inc, ?add, ?sub, ?mul, ?div⟩
  case inc =>
    exact .of_unary (g := fun b => (b + 1) % M) rfl fun b => (add_toNat_modEq m.short b 1).trans (wrap _)
  case add =>
    exact .of_binary (g := fun a b => (a + b) % M) rfl fun a b _ => (add_toNat_modEq m.short a b).trans (wrap _)
  case sub =>
    exact .of_binary (g := fun a b => (a + M - b) % M) rfl fun a b hb =>
      (sub_toNat_modEq m.short a b hb).trans (wrap _)
  case mul =>
    exact .of_binary (g := fun a b => a * b % M) rfl fun a b _ => (mul_toNat_modEq m.short a b).trans (wrap _)
  case div =>
    exact .of_binary (g := fun a b => if b = 0 then 0 else a / b) rfl fun a b _ => by rw [divide_toNat]

/-! ### Bitwise operations (R505 to R508) -/

/-- SFT on numbers: a count is one byte, its low nibble the shift to the right and its high nibble the one to the
left. -/
theorem nibbleShift_toNat (a n : Short) (hn : n.toNat < 256) :
    (nibbleShift a n).toNat = a.toNat / 2 ^ (n.toNat % 16) * 2 ^ (n.toNat / 16) % 65536 := by
  have right : (n.extractLsb' 0 4).toNat = n.toNat % 16 := by simp
  have left : (n.extractLsb' 4 4).toNat = n.toNat / 16 := by
    simp [Nat.shiftRight_eq_div_pow]
    omega
  rw [nibbleShift, right, left, BitVec.toNat_shiftLeft, BitVec.toNat_ushiftRight, Nat.shiftRight_eq_div_pow,
    Nat.shiftLeft_eq]

/-- SFT pops a count of one byte and then a value of the mode's width (R508). -/
theorem exec_sft (m : Mode) (s : State) :
    let x := s.stack m.ret
    exec (.sft m) s = .next ((s.setPc (s.pc + 1)).setStack m.ret
      ((Stack.keepRestore m.keep x (x.dropped (1 + width m.short))).push m.short
        (nibbleShift (BitVec.ofNat 16 (x.word m.short 1)) (BitVec.ofNat 16 (x.word false 0))))) := by
  change execSft m s = _
  simp only [execSft, Stack.pop_eq, Stack.word_dropped, Stack.dropped_dropped]
  rfl

/-- The bytes SFT pushes, from the numbers of its operands. -/
theorem sft_bytes (short : Bool) (x : Stack) :
    wordBytes short (nibbleShift (BitVec.ofNat 16 (x.word short 1)) (BitVec.ofNat 16 (x.word false 0))).toNat =
      wordBytes short (x.word short 1 / 2 ^ (x.word false 0 % 16) * 2 ^ (x.word false 0 / 16) % modulus short) := by
  have count : (BitVec.ofNat 16 (x.word false 0)).toNat < 256 := by
    rw [Stack.word_toNat]
    exact x.word_lt false 0
  apply wordBytes_congr
  rw [nibbleShift_toNat _ _ count, Stack.word_toNat, Stack.word_toNat]
  exact (mod_short_modEq short _).trans (Nat.mod_modEq _ _).symm

/-- Settles O10: AND, ORA and EOR are the operations on the operands' numbers, and SFT is the law of its count. -/
theorem bitwiseResults : Obligations.BitwiseResults := by
  intro m s x W a b n v
  refine ⟨?and, ?ora, ?eor, ?sft⟩
  case and => exact .of_binary (g := fun a b => a &&& b) rfl fun a b _ => by rw [BitVec.toNat_and]
  case ora => exact .of_binary (g := fun a b => a ||| b) rfl fun a b _ => by rw [BitVec.toNat_or]
  case eor => exact .of_binary (g := fun a b => a ^^^ b) rfl fun a b _ => by rw [BitVec.toNat_xor]
  case sft =>
    rw [← sft_bytes]
    exact .of_active (exec_sft m s) (.genericOne _ _ _ _ _)

/-! ### Comparisons (R509 to R512) -/

/-- Settles O11: each relation of shorts is the relation of their unsigned numbers. -/
theorem comparisonResults : Obligations.ComparisonResults := by
  intro m s x W a b
  refine ⟨?equ, ?neq, ?gth, ?lth⟩
  case equ => exact .of_comparison (p := fun a b => a = b) rfl fun a b => by rw [beq_iff_eq, BitVec.toNat_inj]
  case neq => exact .of_comparison (p := fun a b => a ≠ b) rfl fun a b => by rw [bne_iff_ne, Ne, Ne, BitVec.toNat_inj]
  case gth => exact .of_comparison (p := fun a b => b < a) rfl fun a b => BitVec.ult_iff_lt.trans BitVec.lt_def
  case lth => exact .of_comparison (p := fun a b => a < b) rfl fun a b => BitVec.ult_iff_lt.trans BitVec.lt_def

end Sys2Proof.Machine
end

section
/-! The family 43_stack.md: an opcode byte's row of the opcode map, and the instructions that push their operands
again in another order. -/

namespace Sys2Proof

/-- An opcode byte with a row's base operation is decoded to the row's instruction, in the byte's own mode (R301,
R304). -/
theorem decodeOp_row {op : Byte} {base : BitVec 5} {f : Mode → Instr} (hrow : (base, f) ∈ opcodeMap)
    (hop : op.extractLsb' 0 5 = base) (b1 b2 : Byte) : decodeOp op b1 b2 = f (decodeMode op) := by
  have answer := decodeOp_opByte_row (decodeMode op) b1 b2 _ hrow
  rwa [← hop, opByte_fields] at answer

end Sys2Proof

namespace Sys2Proof.Machine

/-! ### Operands pushed again (R406) -/

@[simp] theorem resultBytes_nil (short : Bool) : resultBytes short [] = [] := rfl

/-- A result that is an operand is the operand's bytes. -/
@[simp] theorem resultBytes_cons_word (short : Bool) (x : Stack) (n : Nat) (vs : List Short) :
    resultBytes short (BitVec.ofNat 16 (x.word short n) :: vs) =
      wordBytes short (x.word short n) ++ resultBytes short vs := by
  rw [resultBytes, List.flatMap_cons, Stack.word_toNat, resultBytes]

/-! ### An operation on one, two or three operands, from the bytes it pushes -/

section
variable {i : Instr} {m : Mode} {s : State} {bs : List Byte}

theorem Runs.of_withOne {f : Short → List Short} (runs : exec i s = .next (withOne m f s))
    (few : ∀ a, 2 * (f a).length < 256)
    (bytes : resultBytes m.short (f (BitVec.ofNat 16 ((s.stack m.ret).word m.short 0))) = bs) :
    Runs i s (fun t => CpuEffect m s t (width m.short) bs [] (s.pc + 1) ∧ NoStore s t) := by
  subst bytes
  exact ⟨_, runs, withOne_effect m f s (few _)⟩

theorem Runs.of_withTwo {f : Short → Short → List Short} (runs : exec i s = .next (withTwo m f s))
    (few : ∀ a b, 2 * (f a b).length < 256)
    (bytes : resultBytes m.short (f (BitVec.ofNat 16 ((s.stack m.ret).word m.short (width m.short)))
      (BitVec.ofNat 16 ((s.stack m.ret).word m.short 0))) = bs) :
    Runs i s (fun t => CpuEffect m s t (2 * width m.short) bs [] (s.pc + 1) ∧ NoStore s t) := by
  subst bytes
  exact ⟨_, runs, withTwo_effect m f s (few _ _)⟩

theorem Runs.of_withThree {f : Short → Short → Short → List Short} (runs : exec i s = .next (withThree m f s))
    (few : ∀ a b c, 2 * (f a b c).length < 256)
    (bytes : resultBytes m.short (f (BitVec.ofNat 16 ((s.stack m.ret).word m.short (2 * width m.short)))
      (BitVec.ofNat 16 ((s.stack m.ret).word m.short (width m.short)))
      (BitVec.ofNat 16 ((s.stack m.ret).word m.short 0))) = bs) :
    Runs i s (fun t => CpuEffect m s t (3 * width m.short) bs [] (s.pc + 1) ∧ NoStore s t) := by
  subst bytes
  exact ⟨_, runs, withThree_effect m f s few⟩

end

/-! ### The six instructions (R550 to R555) -/

/-- Settles O12: NIP is row 0x03 of the opcode map, and of its two operands it pushes only the top one again. -/
theorem nipRemovesSecond : Obligations.NipRemovesSecond := by
  refine ⟨fun op b1 b2 hop => decodeOp_row (by simp [opcodeMap]) hop b1 b2, fun m s => ?_⟩
  exact .of_withTwo (f := fun _ b => [b]) rfl (by simp) (by simp)

/-- Settles O13: DUP is row 0x06 of the opcode map, and it pushes its operand twice. -/
theorem dupDuplicatesTop : Obligations.DupDuplicatesTop := by
  refine ⟨fun op b1 b2 hop => decodeOp_row (by simp [opcodeMap]) hop b1 b2, fun m s => ?_⟩
  exact .of_withOne (f := fun a => [a, a]) rfl (by simp) (by simp)

/-- Settles O14: each instruction pushes its operands again in the order of its stack effect. -/
theorem stackManipulation : Obligations.StackManipulation := by
  intro m s x W v0 v1 v2
  refine ⟨?pop, ?swp, ?rot, ?ovr⟩
  case pop => exact .of_withOne (f := fun _ => []) rfl (by simp) (by simp)
  case swp => exact .of_withTwo (f := fun a b => [b, a]) rfl (by simp) (by simp [v0, v1, x, W])
  case rot => exact .of_withThree (f := fun a b c => [b, c, a]) rfl (by simp) (by simp [v0, v1, v2, x, W])
  case ovr => exact .of_withTwo (f := fun a b => [a, b, a]) rfl (by simp) (by simp [v0, v1, x, W])

end Sys2Proof.Machine
end

section
/-! The family 44_control.md: the jumps by a popped target, and the two instructions that push on the other stack. -/

namespace Sys2Proof.Machine

/-! ### An instruction that changes both stacks and the program counter -/

theorem Runs.of_both {i : Instr} {s : State} {m : Mode} {x y : Stack} {pc : Short} {drop : Nat} {bs os : List Byte}
    (runs : exec i s = .next (((s.setPc pc).setStack m.ret x).setStack (!m.ret) y))
    (active : StackEffect (s.stack m.ret) x (if m.keep then 0 else drop) bs)
    (other : StackEffect (s.stack (!m.ret)) y 0 os) :
    Runs i s (fun t => CpuEffect m s t drop bs os pc ∧ NoStore s t) := by
  obtain ⟨cpu, mem, dev⟩ := cpuEffect_active m s x pc drop bs active
  refine ⟨_, runs, ⟨?_, ?_, ?_, cpu.outside.setStack (!m.ret) y⟩, fun a => ?_, ?_⟩
  · simpa only [State.stack_setStack_other'] using cpu.active
  · simpa only [State.stack_setStack_same] using other
  · simpa only [State.setStack_pc] using cpu.pc
  · simpa only [State.setStack_mem] using mem a
  · simpa only [State.setStack_dev] using dev

/-! ### The four instructions on the words of the active stack (R600 to R604) -/

/-- The target of JMP, JCN and JSR by the operand on top of the active stack, in numbers (R604). -/
def jumpTarget (m : Mode) (s : State) : Short :=
  let d := (s.stack m.ret).word m.short 0
  BitVec.ofNat 16 (if m.short then d else relTarget s.pc (BitVec.ofNat 8 d))

theorem target_pop (m : Mode) (s : State) :
    target m.short (s.pc + 1) ((s.stack m.ret).pop m.short).1 = jumpTarget m s := by
  rw [Stack.pop_eq]
  exact target_eq m.short s.pc _

theorem exec_jmp (m : Mode) (s : State) :
    exec (.jmp m) s = .next ((s.setPc (jumpTarget m s)).setStack m.ret
      ((s.stack m.ret).dropped (if m.keep then 0 else width m.short))) := by
  change execJmp m s = _
  simp only [execJmp, target_pop, Stack.pop_snd, Stack.keepRestore_dropped, State.setStack_setPc]

/-- The condition of JCN is the byte below its target, popped whether or not it jumps (R601). -/
theorem exec_jcn (m : Mode) (s : State) :
    exec (.jcn m) s = .next ((s.setPc (if (s.stack m.ret).word false (width m.short) ≠ 0 then jumpTarget m s
      else s.pc + 1)).setStack m.ret ((s.stack m.ret).dropped (if m.keep then 0 else width m.short + 1))) := by
  have truth : condition (((s.stack m.ret).dropped (width m.short)).pop false).1 =
      decide ((s.stack m.ret).word false (width m.short) ≠ 0) := by
    rw [Stack.pop_eq, Stack.word_dropped, Nat.add_zero]
    exact condition_ofNat _ (lt_of_lt_of_le (Stack.word_lt _ _ _) (modulus_le false))
  change execJcn m s = _
  simp only [execJcn, target_pop, Stack.pop_snd, truth, decide_eq_true_eq, Stack.dropped_dropped,
    Stack.keepRestore_dropped, State.setStack_setPc]
  rfl

/-- JSR pushes the address of the next instruction on the other stack (R602). -/
theorem exec_jsr (m : Mode) (s : State) :
    exec (.jsr m) s = .next (((s.setPc (jumpTarget m s)).setStack m.ret
      ((s.stack m.ret).dropped (if m.keep then 0 else width m.short))).setStack (!m.ret)
      ((s.stack (!m.ret)).push true (s.pc + 1))) := by
  change execJsr m s = _
  simp only [execJsr, target_pop, Stack.pop_snd, Stack.keepRestore_dropped, State.setStack_setPc]

/-- With k = 1 STH leaves its operand on the active stack, and pushes it on the other one all the same (R603). -/
theorem exec_sth (m : Mode) (s : State) :
    exec (.sth m) s = .next (((s.setPc (s.pc + 1)).setStack m.ret
      ((s.stack m.ret).dropped (if m.keep then 0 else width m.short))).setStack (!m.ret)
      ((s.stack (!m.ret)).push m.short (BitVec.ofNat 16 ((s.stack m.ret).word m.short 0)))) := by
  change execSth m s = _
  simp only [execSth, Stack.pop_eq, Stack.keepRestore_dropped]
  rfl

/-! ### Their effects -/

/-- Settles O15: all three go to `jumpTarget`, JCN by its condition; JSR alone changes both stacks. -/
theorem jumpsAndCalls : Obligations.JumpsAndCalls := by
  intro m s x W d goal next
  have jcn := exec_jcn m s
  refine ⟨.of_active (exec_jmp m s) (.drop x _), fun taken => ?_, fun not_taken => ?_, ?_⟩
  · rw [if_pos taken] at jcn
    exact .of_active jcn (.drop x _)
  · rw [if_neg (not_not.2 not_taken)] at jcn
    exact .of_active jcn (.drop x _)
  · have return_address : (s.pc + 1).toNat = next := BitVec.toNat_add s.pc 1
    rw [← return_address]
    exact .of_both (exec_jsr m s) (.drop x _) (.pushed _ true (s.pc + 1))

/-- Settles O16: STH is row 0x0F of the opcode map, and what it pushes on the other stack is its operand. -/
theorem stashMovesTop : Obligations.StashMovesTop := by
  refine ⟨fun op b1 b2 hop => decodeOp_row (by simp [opcodeMap]) hop b1 b2, fun m s => ?_⟩
  intro x
  rw [← x.word_toNat m.short 0]
  exact .of_both (exec_sth m s) (.drop x _) (.pushed _ m.short _)

end Sys2Proof.Machine
end

section
/-! The family 45_memory_access.md: loads and stores at the addresses of an access, in numbers. -/

namespace Sys2Proof.Machine

/-! ### The addresses of an access (R203, R204) -/

/-- An access at a register of `w` bits wraps at `2 ^ w`, as that register does. -/
theorem span_toNat {w cap : Nat} (hcap : 2 ^ w = cap) (short : Bool) (a : BitVec w) :
    span short a.toNat cap = if short then [a.toNat, (a + 1).toNat] else [a.toNat] := by
  have next : (a + 1).toNat = (a.toNat + 1) % cap := by simp [BitVec.toNat_add, hcap]
  rw [span, next]

/-- LDZ and STZ address the byte on top of the stack (R651, R652). -/
theorem zpAddress_toNat (x : Stack) (n : Nat) :
    (loByte (BitVec.ofNat 16 (x.word false n))).toNat = x.word false n := by
  rw [loByte_word]
  rfl

theorem relTarget_lt (pc : Short) (d : Byte) : relTarget pc d < 65536 := by
  rw [relTarget]
  omega

/-- LDR and STR address a byte displacement from the next instruction (R653, R654). -/
theorem relAddr_toNat (pc : Short) (d : Nat) :
    (relAddr (pc + 1) (BitVec.ofNat 16 d)).toNat = relTarget pc (BitVec.ofNat 8 d) := by
  rw [relAddr_eq]
  exact Nat.mod_eq_of_lt (relTarget_lt pc _)

/-! ### The bytes an access reads and writes -/

/-- A value read is the bytes at its addresses, the more significant one first (R201). -/
theorem wordBytes_read (mem : Memory) (short : Bool) (a b : Nat) :
    wordBytes short (if short then mem.read a ++ mem.read b else (mem.read a).setWidth 16 : Short).toNat =
      (if short then [a, b] else [a]).map mem.read := by
  cases short with
  | false => exact wordBytes_byte (mem.read a)
  | true => exact wordBytes_append (mem.read a) (mem.read b)

theorem wordBytes_zpRead (mem : Memory) (short : Bool) {a : Byte} {n : Nat} (address : a.toNat = n) :
    wordBytes short (zpRead mem short a).toNat = (span short n 256).map mem.read := by
  rw [← address, span_toNat (cap := 256) rfl short a]
  exact wordBytes_read mem short _ _

theorem wordBytes_memRead (mem : Memory) (short : Bool) {a : Short} {n : Nat} (address : a.toNat = n) :
    wordBytes short (memRead mem short a).toNat = (span short n 65536).map mem.read := by
  rw [← address, span_toNat (cap := 65536) rfl short a]
  exact wordBytes_read mem short _ _

section
variable {s t : State} {short : Bool} {v : Short}

/-- Writes of a value's bytes at different addresses store those bytes and no other: neither write hides the
other. -/
theorem StoredAt.of_writes {a b : Nat} (distinct : b ≠ a)
    (mem : t.mem = if short then (s.mem.write a (hiByte v)).write b (loByte v) else s.mem.write a (loByte v))
    (dev : t.dev = s.dev) : StoredAt s t (if short then [a, b] else [a]) (wordBytes short v.toNat) := by
  rw [wordBytes_toNat]
  cases short with
  | false =>
    have read (c : Nat) : t.mem.read c = if a = c then loByte v else s.mem.read c := by
      rw [mem]
      exact Store.read_write s.mem a c (loByte v)
    refine ⟨by simp [read], fun c hc => ?_, dev⟩
    rw [read, if_neg fun h => hc (by simp [h])]
  | true =>
    have read (c : Nat) : t.mem.read c = if b = c then loByte v else if a = c then hiByte v else s.mem.read c := by
      rw [mem]
      exact read_write2 s.mem a b c (hiByte v) (loByte v)
    refine ⟨by simp [read, distinct], fun c hc => ?_, dev⟩
    rw [read, if_neg fun h => hc (by simp [h]), if_neg fun h => hc (by simp [h])]

theorem StoredAt.of_zpWrite {a : Byte} {n : Nat} (address : a.toNat = n)
    (mem : t.mem = zpWrite s.mem short a v) (dev : t.dev = s.dev) :
    StoredAt s t (span short n 256) (wordBytes short v.toNat) := by
  rw [← address, span_toNat (cap := 256) rfl short a]
  exact .of_writes (by bv_omega) mem dev

theorem StoredAt.of_memWrite {a : Short} {n : Nat} (address : a.toNat = n)
    (mem : t.mem = memWrite s.mem short a v) (dev : t.dev = s.dev) :
    StoredAt s t (span short n 65536) (wordBytes short v.toNat) := by
  rw [← address, span_toNat (cap := 65536) rfl short a]
  exact .of_writes (by bv_omega) mem dev

end

/-! ### Loads and stores (R650 to R656) -/

section
variable {i : Instr} {m : Mode} {s : State} {wide : Bool} {addrs : List Nat}

/-- A load pushes the bytes at the addresses that its operand's value stands for. -/
theorem Runs.of_load {value : Short → Short} (runs : exec i s = .next (loadOp m wide value s))
    (bytes : wordBytes m.short (value (BitVec.ofNat 16 ((s.stack m.ret).word wide 0))).toNat =
      addrs.map s.mem.read) :
    Runs i s (fun t => CpuEffect m s t (width wide) (addrs.map s.mem.read) [] (s.pc + 1) ∧ NoStore s t) := by
  rw [← bytes]
  exact ⟨_, runs, loadOp_effect m wide value s⟩

/-- A store stores the bytes of the value below its address operand, where its write of the memory does. -/
theorem Runs.of_store {store : Short → Short → Memory} (runs : exec i s = .next (storeOp m wide store s))
    (stored : ∀ (t : State) (v : Short), t.mem = store (BitVec.ofNat 16 ((s.stack m.ret).word wide 0)) v →
      t.dev = s.dev → StoredAt s t addrs (wordBytes m.short v.toNat)) :
    Runs i s (fun t => CpuEffect m s t (width wide + width m.short) [] [] (s.pc + 1) ∧
      StoredAt s t addrs (wordBytes m.short ((s.stack m.ret).word m.short (width wide)))) := by
  obtain ⟨cpu, dev, mem⟩ := storeOp_effect m wide store s
  rw [← Stack.word_toNat]
  exact ⟨_, runs, cpu, stored _ _ mem dev⟩

end

/-- Settles O20: each load reads at its address operand in numbers, and what it reads is what it pushes. -/
theorem loads : Obligations.Loads := by
  intro m s x z e a
  refine ⟨.of_load (wide := false) rfl ?ldz, .of_load (wide := false) rfl ?ldr, .of_load (wide := true) rfl ?lda⟩
  case ldz => exact wordBytes_zpRead s.mem m.short (zpAddress_toNat x 0)
  case ldr => exact wordBytes_memRead s.mem m.short (relAddr_toNat s.pc z)
  case lda => exact wordBytes_memRead s.mem m.short (x.word_toNat true 0)

/-- Settles O21: each store writes at its address operand in numbers, and no byte elsewhere. -/
theorem stores : Obligations.Stores := by
  intro m s x W z e a v1 v2
  refine ⟨.of_store (wide := false) rfl ?stz, .of_store (wide := false) rfl ?str, .of_store (wide := true) rfl ?sta⟩
  case stz => exact fun _ _ => .of_zpWrite (zpAddress_toNat x 0)
  case str => exact fun _ _ => .of_memWrite (relAddr_toNat s.pc z)
  case sta => exact fun _ _ => .of_memWrite (x.word_toNat true 0)

end Sys2Proof.Machine
end

section
/-! The family 46_device_bus.md: bus accesses without an external handler, DEI and DEO as one or two of them, the
VDP's handlers on the port pair, and the dispatch tables. -/

namespace Sys2Proof.Machine

/-! ### A port and the next one (R704, R705, decision D6) -/

/-- A port is not the one after it, also where 0xFF is followed by 0x00. -/
theorem nextPort_ne (p : Byte) : p + 1 ≠ p := by bv_omega

theorem rd_wr_port (d : Bank 8 Byte) (p v q : Byte) : (d.wr p v).rd q = if q = p then v else d.rd q := by
  rw [Bank.rd_wr]
  simp only [eq_comm]

/-- The two bytes of a short stand at two ports, so the second write does not hide the first. -/
theorem rd_wr_portPair (d : Bank 8 Byte) (p hi lo q : Byte) :
    ((d.wr p hi).wr (p + 1) lo).rd q = if q = p then hi else if q = p + 1 then lo else d.rd q := by
  rw [rd_wr_port, rd_wr_port]
  by_cases h : q = p
  · rw [h, if_neg (nextPort_ne p).symm, if_pos rfl, if_pos rfl]
  · simp only [if_neg h]

/-! ### The two accesses (R700, R701) -/

theorem devRead_plain {s : State} {p : Byte} (h : PlainRead s.params p) : devRead p s = (s.dev.rd p, s) := by
  simp only [devRead, readHandler_raw h]

theorem devRead_vdp {s : State} {p : Byte} (h : p = s.params.vdpPort) : devRead p s = vdpRead s := by
  subst h
  simp only [devRead, readHandler_vdp]

theorem PlainRead.not_ext {c : Params} {p : Byte} (h : PlainRead c p) : ¬ ExtRead c p := fun ext => h.2 ext.2

theorem PlainWrite.not_ext {c : Params} {p : Byte} (h : PlainWrite c p) : ¬ ExtWrite c p := fun ext => h.2 ext.2

/-- Settles O23: the state of the handler is the one with the byte stored. -/
theorem busAccess : Obligations.BusAccess := by
  intro s p v r
  refine ⟨devRead_plain, devRead_vdp, s.setDev (s.dev.wr p v), rfl, Bank.rd_wr_same _ _ _, fun q hq => ?_,
    fun plain => devWrite_plain plain v r, fun vdp => devWrite_vdp vdp v r, fun ext => devWrite_ext ext v r⟩
  exact Bank.rd_wr_ne _ _ _ _ hq.symm

/-! ### The VDP's handlers (R709, R750, R790) -/

theorem vdpWrite_beyond (s : State) : BeyondVdpSame s (vdpWrite s) := by
  by_cases h : s.vr 0 = 0
  · rw [vdpWrite_latch s h]
    exact (BeyondVdpSame.refl s).setVr _ _
  · rw [vdpWrite_execute s h]
    exact vdpExecute_beyond _ s

/-- The read handler leaves its result in the port pair, high byte first (R790). -/
theorem vdpRead_dev_rd (s : State) (q : Byte) :
    (vdpRead s).2.dev.rd q = if q = s.params.vdpPort then hiByte (vdpResult s)
      else if q = s.params.vdpPort + 1 then loByte (vdpResult s) else s.dev.rd q :=
  rd_wr_portPair _ _ _ _ q

/-- The byte the read handler answers is the one it left at `P` (R790). -/
theorem vdpRead_fst (s : State) : (vdpRead s).1 = hiByte (vdpResult s) :=
  (vdpRead_dev_rd s s.params.vdpPort).trans (if_pos rfl)

/-- The read handler resets CMD and no other register (R790). -/
theorem vdpRead_vr (s : State) (i : BitVec 4) : (vdpRead s).2.vr i = if 0 = i then 0 else s.vr i :=
  Bank.rd_wr _ _ _ _

@[simp] theorem State.vr_setStack (s : State) (r : Bool) (x : Stack) (i : BitVec 4) :
    (s.setStack r x).vr i = s.vr i := by
  cases r <;> rfl

@[simp] theorem vdpRead_stack (s : State) (r : Bool) : (vdpRead s).2.stack r = s.stack r := by
  cases r <;> rfl

@[simp] theorem vdpResult_setStack (s : State) (r : Bool) (x : Stack) : vdpResult (s.setStack r x) = vdpResult s := by
  cases r <;> rfl

/-- Settles O29: the write handler by its latch and its commands, the read handler by what it leaves at each port. -/
theorem vdpHandlersFrame : Obligations.VdpHandlersFrame := by
  intro s
  refine ⟨vdpWrite_beyond s, vdpRead_eq s, fun q hq hnext => ?_⟩
  rw [vdpRead_dev_rd, if_neg hq, if_neg hnext]

/-! ### DEI without an external handler (R704) -/

/-- The reads of a DEI: the value they answer, the high byte first, and the state they leave. -/
def busRead (short : Bool) (p : Byte) (s : State) : Short × State :=
  let hi := devRead p s
  if short then
    let lo := devRead (p + 1) hi.2
    (hi.1 ++ lo.1, lo.2)
  else (hi.1.setWidth 16, hi.2)

@[simp] theorem busRead_stack (short : Bool) (p : Byte) (s : State) (r : Bool) :
    (busRead short p s).2.stack r = s.stack r := by
  cases short <;> simp [busRead]

/-- On plain ports the reads answer the bytes stored there. -/
theorem busRead_plain {short : Bool} {p : Byte} {s : State} (first : PlainRead s.params p)
    (second : short = true → PlainRead s.params (p + 1)) :
    wordBytes short (busRead short p s).1.toNat =
        (if short then [s.dev.rd p, s.dev.rd (p + 1)] else [s.dev.rd p]) ∧
      (busRead short p s).2 = s := by
  cases short with
  | false =>
    simp only [busRead, devRead_plain first]
    exact ⟨wordBytes_byte _, rfl⟩
  | true =>
    simp only [busRead, devRead_plain first, devRead_plain (second rfl)]
    exact ⟨wordBytes_append _ _, rfl⟩

/-- At the VDP's port the second read finds the low byte that the read handler left at the next port. -/
theorem busRead_vdp (short : Bool) {s : State} (plain : s.params.vdpPort + 1 ∉ s.params.extReadPorts) :
    wordBytes short (busRead short s.params.vdpPort s).1.toNat =
        (if short then [hiByte (vdpResult s), loByte (vdpResult s)] else [hiByte (vdpResult s)]) ∧
      (busRead short s.params.vdpPort s).2 = (vdpRead s).2 := by
  cases short with
  | false =>
    simp only [busRead, devRead_vdp, vdpRead_fst]
    exact ⟨wordBytes_byte _, rfl⟩
  | true =>
    have second : PlainRead (vdpRead s).2.params (s.params.vdpPort + 1) := ⟨nextPort_ne _, plain⟩
    have low : (vdpRead s).2.dev.rd (s.params.vdpPort + 1) = loByte (vdpResult s) := by
      rw [vdpRead_dev_rd, if_neg (nextPort_ne _), if_pos rfl]
    simp only [busRead, devRead_vdp, devRead_plain second, vdpRead_fst, low]
    exact ⟨wordBytes_append _ _, rfl⟩

/-- DEI pushes what its reads answer, on the stack as the operand's pop and the keep restore left it (R408). -/
theorem exec_dei {m : Mode} {s : State} {p : Byte} (port : (s.stack m.ret).under 0 = p)
    (first : ¬ ExtRead s.params p) (second : m.short = true → ¬ ExtRead s.params (p + 1)) :
    let read := busRead m.short p (accessPoint m 1 s)
    exec (.dei m) s = .next (read.2.setStack m.ret ((read.2.stack m.ret).push m.short read.1)) := by
  subst port
  rw [← accessPoint_params m 1] at first second
  cases short : m.short with
  | false =>
    rw [exec_dei_byte short, devReadByte_not_ext first]
    simp only [busRead_stack]
    rfl
  | true =>
    rw [← (devRead_frame ((s.stack m.ret).under 0) _).1.params] at second
    rw [exec_dei_short short, devRead2_not_ext first, devReadLo_not_ext (second short)]
    simp only [busRead_stack, devRead_stack]
    rfl

/-! ### DEO without an external handler (R705) -/

/-- The writes of a DEO: a byte is `lo` alone; of a short, `hi` goes first. -/
def busWrite (short : Bool) (p hi lo : Byte) (s : State) : State :=
  if short then devWrite (p + 1) lo .writeDone (devWrite p hi .writeDone s) else devWrite p lo .writeDone s

/-- DEO is its writes from the state in which its operands are gone, or kept (R408). -/
theorem exec_deo {m : Mode} {s : State} {p : Byte} (port : (s.stack m.ret).under 0 = p)
    (first : ¬ ExtWrite s.params p) :
    let x := s.stack m.ret
    exec (.deo m) s = .next (busWrite m.short p (x.under 2) (x.under 1) (accessPoint m (1 + width m.short) s)) := by
  subst port
  cases short : m.short with
  | false => exact exec_deo_byte short s
  | true =>
    rw [← accessPoint_params m 3] at first
    rw [exec_deo_short short, devWrite2_not_ext first]
    rfl

/-- On plain ports the writes are those of the register file. -/
theorem busWrite_plain {short : Bool} {p : Byte} {s : State} (first : PlainWrite s.params p)
    (second : short = true → PlainWrite s.params (p + 1)) (hi lo : Byte) :
    busWrite short p hi lo s = s.setDev (if short then (s.dev.wr p hi).wr (p + 1) lo else s.dev.wr p lo) := by
  cases short with
  | false => exact devWrite_plain first _ _
  | true =>
    have second : PlainWrite (devWrite p hi .writeDone s).params (p + 1) := by
      rw [(devWrite_frame p hi .writeDone s).1.params]
      exact second rfl
    rw [busWrite, if_pos rfl, devWrite_plain second, devWrite_plain first]
    rfl

/-! ### DEI and DEO as bus accesses -/

/-- Settles O24: the accesses start from the access point of R408, and `busRead` and `busWrite` are one access or
two. -/
theorem deviceInstructionsAccessBus : Obligations.DeviceInstructionsAccessBus := by
  intro m s x p
  refine ⟨fun first second => ?dei, fun first _ => ?deo⟩
  case dei =>
    obtain ⟨cpu, store⟩ := accessPoint_effect m 1 s
    refine ⟨_, exec_dei rfl first second, _, cpu, store, fun short => ?_, fun short => ?_⟩
    · rw [short, ← wordBytes_byte]
      exact pushedOnly_push m.ret _ false _
    · intro hi lo
      rw [short, ← wordBytes_append]
      exact pushedOnly_push m.ret _ true _
  case deo =>
    obtain ⟨cpu, store⟩ := accessPoint_effect m (1 + width m.short) s
    refine ⟨_, exec_deo rfl first, _, cpu, store, fun short => ?_, fun short => ?_⟩
    · rw [short]
      rfl
    · rw [short]
      rfl

/-- Settles O25: a plain port's access is a read or a write of the register file. -/
theorem plainPortsAreStorage : Obligations.PlainPortsAreStorage := by
  intro m s x p
  refine ⟨fun first second => ?dei, fun first second => ?deo⟩
  case dei =>
    have runs := exec_dei rfl first.not_ext fun short => (second short).not_ext
    rw [← accessPoint_params m 1] at first second
    obtain ⟨bytes, same⟩ := busRead_plain first second
    rw [accessPoint_dev] at bytes
    dsimp only at runs
    rw [same, accessPoint, State.stack_setStack_same, State.setStack_setStack] at runs
    rw [← bytes]
    exact .of_active runs ((StackEffect.drop x _).push (by simp) m.short _)
  case deo =>
    obtain ⟨cpu, -⟩ := accessPoint_effect m (1 + width m.short) s
    have runs := exec_deo rfl first.not_ext
    rw [← accessPoint_params m (1 + width m.short)] at first second
    dsimp only at runs
    rw [busWrite_plain first second, accessPoint_dev] at runs
    refine ⟨_, runs, cpu.setDev _, by simp, fun short => ?_, fun short => ?_⟩
    · rw [short]
      exact rd_wr_port s.dev p _
    · rw [short]
      exact rd_wr_portPair s.dev p _ _

/-! ### DEI and DEO at the VDP's ports (R707) -/

/-- The bytes DEI pushes at the VDP's port, and its read handler, which does not look at the stacks, run on the state
with these bytes pushed. -/
theorem exec_dei_vdp {m : Mode} {s : State} (port : (s.stack m.ret).under 0 = s.params.vdpPort)
    (plain : s.params.vdpPort + 1 ∉ s.params.extReadPorts) :
    ∃ y, StackEffect (s.stack m.ret) y (if m.keep then 0 else 1)
        (if m.short then [hiByte (vdpResult s), loByte (vdpResult s)] else [hiByte (vdpResult s)]) ∧
      exec (.dei m) s = .next (vdpRead ((s.setPc (s.pc + 1)).setStack m.ret y)).2 := by
  have result : vdpResult (accessPoint m 1 s) = vdpResult s := vdpResult_setStack (s.advance 1) _ _
  obtain ⟨bytes, left⟩ := busRead_vdp m.short (s := accessPoint m 1 s) (by simpa using plain)
  rw [accessPoint_params] at bytes left
  rw [← result, ← bytes]
  refine ⟨_, (StackEffect.drop (s.stack m.ret) _).push (by simp) m.short _, ?_⟩
  rw [exec_dei port (fun ext => ext.1 rfl) fun _ ext => plain ext.2, left, vdpRead_stack]
  simp only [accessPoint, vdpRead_setStack, State.setStack_setStack, State.stack_setStack_same]
  rfl

/-- Settles O26: `u` has the bytes pushed, and what the read handler makes of it is the rest. -/
theorem deiReadsVdp : Obligations.DeiReadsVdp := by
  intro m s P port plain
  obtain ⟨y, pushed, runs⟩ := exec_dei_vdp port plain
  obtain ⟨cpu, store⟩ := cpuEffect_active m s y (s.pc + 1) 1 _ pushed
  have ports (q : Byte) := vdpRead_dev_rd ((s.setPc (s.pc + 1)).setStack m.ret y) q
  have regs (i : BitVec 4) := vdpRead_vr ((s.setPc (s.pc + 1)).setStack m.ret y) i
  simp only [vdpResult_setStack, State.setStack_params, State.setStack_dev, State.vr_setStack] at ports regs
  rw [← hiByte_eq, ← loByte_eq]
  refine ⟨_, runs, _, cpu, store, ?_, fun i hi => ?_, ?_, ?_, fun q hq hnext => ?_, vdpRead_eq _⟩
  · exact (regs 0).trans (if_pos rfl)
  · exact (regs i).trans (if_neg hi.symm)
  · exact (ports P).trans (if_pos rfl)
  · exact (ports (P + 1)).trans ((if_neg (nextPort_ne P)).trans (if_pos rfl))
  · exact (ports q).trans ((if_neg hq).trans (if_neg hnext))

/-- A byte written to the VDP's second port, and the write protocol on the pair (R705, R707). -/
theorem exec_deo_vdp_byte {m : Mode} {s : State} (byte : m.short = false)
    (port : (s.stack m.ret).under 0 = s.params.vdpPort + 1) :
    exec (.deo m) s = .next (vdpWrite ((accessPoint m 2 s).setDev
      (s.dev.wr (s.params.vdpPort + 1) ((s.stack m.ret).under 1)))) := by
  rw [exec_deo_byte byte, port, devWrite_vdp (by rw [accessPoint_params]), accessPoint_dev]

/-- Of a short written to the VDP's pair only the low byte runs the write protocol (R705, R707). -/
theorem exec_deo_vdp_short {m : Mode} {s : State} (short : m.short = true)
    (port : (s.stack m.ret).under 0 = s.params.vdpPort) (plain : s.params.vdpPort ∉ s.params.extWritePorts) :
    let x := s.stack m.ret
    exec (.deo m) s = .next (vdpWrite ((accessPoint m 3 s).setDev
      ((s.dev.wr s.params.vdpPort (x.under 2)).wr (s.params.vdpPort + 1) (x.under 1)))) := by
  have first : PlainWrite (accessPoint m 3 s).params s.params.vdpPort := by
    rw [accessPoint_params]
    exact ⟨(nextPort_ne _).symm, plain⟩
  rw [exec_deo_short short, port, devWrite2_not_ext first.not_ext, devWrite_plain first, accessPoint_dev,
    devWrite_vdp (by rw [State.setDev_params, accessPoint_params])]
  rfl

/-- A DEO that leaves the register file `d`, of which `byteAt` are the bytes, to the write protocol. -/
theorem Runs.of_vdpWrite {m : Mode} {s : State} {n : Nat} {d : Bank 8 Byte} {byteAt : Byte → Byte} {v : Short}
    (runs : exec (.deo m) s = .next (vdpWrite ((accessPoint m n s).setDev d))) (stored : ∀ q, d.rd q = byteAt q)
    (pair : byteAt s.params.vdpPort ++ byteAt (s.params.vdpPort + 1) = v) :
    Runs (.deo m) s (fun t => ∃ u, CpuEffect m s u n [] [] (s.pc + 1) ∧ u.mem = s.mem ∧
      (∀ q, u.dev.rd q = byteAt q) ∧ portValue u = v ∧ t = vdpWrite u) := by
  obtain ⟨cpu, -⟩ := accessPoint_effect m n s
  refine ⟨_, runs, _, cpu.setDev d, accessPoint_mem m n s, stored, ?_, rfl⟩
  rw [portValue, State.setDev_params, State.setDev_dev, accessPoint_params, stored, stored, pair]

/-- Settles O27: the bytes are stored first, so the pair is complete when the write protocol runs on it. -/
theorem deoDrivesVdp : Obligations.DeoDrivesVdp := by
  intro m s x P
  have next := nextPort_ne P
  refine ⟨fun byte port => .of_vdpWrite (exec_deo_vdp_byte byte port) (rd_wr_port _ _ _) ?_,
    fun short port plain => .of_vdpWrite (exec_deo_vdp_short short port plain) (rd_wr_portPair _ _ _ _) ?_⟩
  · rw [if_neg next.symm, if_pos rfl]
  · rw [if_pos rfl, if_neg next, if_pos rfl]

/-! ### Registration (R703) -/

@[simp] theorem State.leave_params (s : State) (r : RunResult) : (s.leave r).params = s.params := by
  rw [State.leave_eq]

@[simp] theorem State.runOffPoint_params (s : State) : s.runOffPoint.params = s.params := by
  obtain ⟨-, h⟩ | ⟨-, h⟩ | ⟨-, h | h⟩ := s.runOffPoint_cases <;> simp [h]

@[simp] theorem State.settle_params (s : State) (wrapped : Bool) : (s.settle wrapped).params = s.params := by
  unfold State.settle
  split
  · split <;> simp
  · rfl

theorem handlerStep_params {h : HandlerCall} {s t : State} (ht : handlerStep h s = .next t) : t.params = s.params := by
  obtain ⟨applied, -⟩ := apply_all_frame (Config.extReply s.free (resumeDir h.resume) h.port s).effects
    (s.setFree (s.free + 1))
  unfold handlerStep at ht
  dsimp only at ht
  split at ht
  · split at ht
    · cases ht
      exact applied.params
    · cases ht
  · cases ht
    rw [State.settle_params]
    exact (resumeInstr_frame _ _ _).1.params.trans applied.params

theorem exec_next_params {i : Instr} {s t : State} (ht : exec i s = .next t) : t.params = s.params := by
  by_cases hi : i = .brk
  · subst hi
    cases ht
    exact State.leave_params _ _
  · exact exec_params hi ht

theorem hostStep_params (s : State) : (hostStep s).params = s.params := by
  unfold hostStep
  split
  · rfl
  · next c rest _ => cases c <;> rfl

theorem renderStep_params (pt : RenderPoint) (s : State) : (renderStep pt s).params = s.params := by
  cases pt with
  | vblank => rw [renderStep, renderVblank_eq]
  | skipTest => rw [renderStep, renderSkipTest_eq]
  | rowStart y => rw [renderStep, renderRowStart_eq]
  | rowDraw y => rw [renderStep, renderRowDraw_eq]; rfl

/-- By the four kinds of step. -/
theorem step_params {s t : State} (ht : step s = .next t) : t.params = s.params := by
  unfold step at ht
  split at ht
  · cases ht
    exact hostStep_params s
  · cases ht
    exact renderStep_params _ s
  · exact handlerStep_params ht
  · split at ht
    · next u hu =>
      cases ht
      rw [State.settle_params]
      exact exec_next_params hu
    · cases ht
    · cases ht

theorem readHandler_raw_iff {c : Params} {p : Byte} : readHandler c p = .raw ↔ PlainRead c p := by
  unfold readHandler PlainRead
  split
  · simp_all
  · split <;> simp_all

theorem writeHandler_raw_iff {c : Params} {p : Byte} : writeHandler c p = .raw ↔ PlainWrite c p := by
  unfold writeHandler PlainWrite
  split
  · simp_all
  · split <;> simp_all

/-- Settles O52: the tables are functions of the parameters, which every step keeps, and off the VDP's ports each is
one of the two lists. -/
theorem registrationIsStatic : Obligations.RegistrationIsStatic := by
  refine ⟨fun s t ht => ?_, fun c p hread hwrite => ?_⟩
  · rw [step_params ht]
    exact ⟨rfl, fun p => ⟨rfl, rfl⟩⟩
  · exact ⟨readHandler_ext.trans (and_iff_right hread), readHandler_raw_iff.trans (and_iff_right hread),
      writeHandler_ext.trans (and_iff_right hwrite), writeHandler_raw_iff.trans (and_iff_right hwrite)⟩

end Sys2Proof.Machine
end

section
/-! The family 47_vdp_commands.md: the write protocol as a latch or one operation with its dirty bit, the write
selectors by the memory they change, and the read selectors. -/

namespace Sys2Proof.Machine

/-! ### The write selectors and their dirty bits (R751, R754, R755) -/

/-- The operations in the order of their selectors, 0x00 to 0x0D (R755). -/
def writeSelectors : List WriteOp :=
  [.clrReg, .wrRegLo, .wrRegHi, .wrReg16, .clrPal, .wrPalLo, .wrPalHi, .wrPal16,
    .clrVram, .wrVram, .copyVram, .fillVramConst, .fillVramPattern, .copyCgram]

theorem writeOp_of_selector {cmd : Short} {n : Nat} (sel : (cmd.extractLsb' 0 5).toNat = n) :
    writeOp cmd = writeSelectors.getD n .reserved := by
  subst sel
  unfold writeOp
  generalize cmd.extractLsb' 0 5 = field
  revert field
  decide

/-- The dirty bit by the selector's range (R754). -/
theorem dirtyBit_writeOp (cmd : Short) :
    let sel := (cmd.extractLsb' 0 5).toNat
    (sel < 4 → dirtyBit (writeOp cmd) = 0x1000) ∧
    (4 ≤ sel → sel < 8 → dirtyBit (writeOp cmd) = 0x2000) ∧
    (8 ≤ sel → sel < 13 → dirtyBit (writeOp cmd) = 0x4000) ∧
    (sel = 13 → dirtyBit (writeOp cmd) = 0x8000) ∧
    (14 ≤ sel → dirtyBit (writeOp cmd) = 0) := by
  rw [writeOp_of_selector rfl]
  generalize cmd.extractLsb' 0 5 = field
  revert field
  decide

/-! ### What an operation leaves alone: the memories its dirty bit does not name (R754) -/

theorem vdpOp_vr_same {op : WriteOp} (h : dirtyBit op ≠ 0x1000) (cmd v : Short) (s : State) :
    (vdpOp op cmd v s).vr = s.vr := by
  cases op
  case clrReg | wrRegLo | wrRegHi | wrReg16 => exact absurd rfl h
  all_goals rfl

theorem vdpOp_cram_same {op : WriteOp} (h : dirtyBit op ≠ 0x2000) (cmd v : Short) (s : State) :
    (vdpOp op cmd v s).cram = s.cram := by
  cases op
  case clrPal | wrPalLo | wrPalHi | wrPal16 => exact absurd rfl h
  all_goals rfl

theorem vdpOp_vram_same {op : WriteOp} (h : dirtyBit op ≠ 0x4000) (cmd v : Short) (s : State) :
    (vdpOp op cmd v s).vram = s.vram := by
  cases op
  case clrVram | wrVram | copyVram | fillVramConst | fillVramPattern => exact absurd rfl h
  all_goals rfl

theorem vdpOp_cgram_same {op : WriteOp} (h : dirtyBit op ≠ 0x8000) (cmd v : Short) (s : State) :
    (vdpOp op cmd v s).cgram = s.cgram := by
  cases op
  case copyCgram => exact absurd rfl h
  all_goals rfl

/-! ### The write protocol (R750, R752, R753) -/

/-- Settles O30: the latch is one register write. -/
theorem latchPhase : Obligations.LatchPhase := by
  intro s idle
  rw [vdpWrite_latch s idle]
  exact ⟨State.vr_setVr_same _ _ _, fun i hi => State.vr_setVr_ne _ _ _ _ hi.symm, rfl⟩

section
variable {s : State} {op : WriteOp}

/-- With the command of `op` pending, a write leaves the registers as the operation does, but for CMD and the
dirty bit (R753). -/
theorem vdpWrite_regs (pending : s.vr 0 ≠ 0) (command : writeOp (s.vr 0) = op) :
    AfterCommand (vdpWrite s) (vdpOp op (s.vr 0) (portValue s) s).vr (dirtyBit op) := by
  subst command
  rw [vdpWrite_execute s pending]
  exact vdpExecute_regs _ s

/-- The other memories are the operation's. -/
theorem vdpWrite_memories (pending : s.vr 0 ≠ 0) (command : writeOp (s.vr 0) = op) :
    let u := vdpOp op (s.vr 0) (portValue s) s
    (vdpWrite s).cram = u.cram ∧ (vdpWrite s).vram = u.vram ∧ (vdpWrite s).cgram = u.cgram := by
  subst command
  rw [vdpWrite_execute s pending]
  exact vdpExecute_memories _ s

theorem vdpWrite_cram (pending : s.vr 0 ≠ 0) (command : writeOp (s.vr 0) = op) :
    (vdpWrite s).cram = (vdpOp op (s.vr 0) (portValue s) s).cram := by
  obtain ⟨cram, -, -⟩ := vdpWrite_memories pending command
  exact cram

theorem vdpWrite_vram (pending : s.vr 0 ≠ 0) (command : writeOp (s.vr 0) = op) :
    (vdpWrite s).vram = (vdpOp op (s.vr 0) (portValue s) s).vram := by
  obtain ⟨-, vram, -⟩ := vdpWrite_memories pending command
  exact vram

theorem vdpWrite_cgram (pending : s.vr 0 ≠ 0) (command : writeOp (s.vr 0) = op) :
    (vdpWrite s).cgram = (vdpOp op (s.vr 0) (portValue s) s).cgram := by
  obtain ⟨-, -, cgram⟩ := vdpWrite_memories pending command
  exact cgram

/-- A command keeps the registers, the palette, VRAM and CGRAM where its dirty bit is that of another memory. -/
theorem vdpWrite_same {d : Short} (pending : s.vr 0 ≠ 0) (dirty : dirtyBit (writeOp (s.vr 0)) = d) :
    (d ≠ 0x1000 → AfterCommand (vdpWrite s) s.vr d) ∧ (d ≠ 0x2000 → (vdpWrite s).cram = s.cram) ∧
      (d ≠ 0x4000 → (vdpWrite s).vram = s.vram) ∧ (d ≠ 0x8000 → (vdpWrite s).cgram = s.cgram) := by
  subst dirty
  refine ⟨fun h => ?_, fun h => (vdpWrite_cram pending rfl).trans (vdpOp_cram_same h _ _ s),
    fun h => (vdpWrite_vram pending rfl).trans (vdpOp_vram_same h _ _ s),
    fun h => (vdpWrite_cgram pending rfl).trans (vdpOp_cgram_same h _ _ s)⟩
  have regs := vdpWrite_regs pending rfl
  rwa [vdpOp_vr_same h] at regs

end

/-! ### Register selectors (R760 to R763, R774) -/

theorem withLo_loByte (v x : Short) :
    withLo v (loByte x) = BitVec.ofNat 16 (v.toNat / 256 * 256 + x.toNat % 256) := by
  apply BitVec.eq_of_toNat_eq
  rw [withLo, append_toNat, hiByte_eq, loByte_eq]
  simp only [BitVec.toNat_ofNat]
  omega

theorem withHi_loByte (v x : Short) :
    withHi v (loByte x) = BitVec.ofNat 16 (x.toNat % 256 * 256 + v.toNat % 256) := by
  apply BitVec.eq_of_toNat_eq
  rw [withHi, append_toNat, loByte_eq, loByte_eq]
  simp only [BitVec.toNat_ofNat]
  omega

/-- Every place of a file after one write. -/
theorem Bank.rd_of_wr {k : Nat} {α : Type} {c d : Bank k α} {e : BitVec k} {new : α} (h : d = c.wr e new)
    (i : BitVec k) : d.rd i = if i = e then new else c.rd i := by
  rw [h, Bank.rd_wr]
  simp only [eq_comm]

/-- The registers after a command whose operation writes `new` to register `r`. -/
theorem AfterCommand.of_setVr {t s : State} {r : BitVec 4} {new : Short} {d : Short}
    (h : AfterCommand t (s.setVr r new).vr d) : AfterCommand t (fun i => if i = r then new else s.vr i) d := by
  have regs : (s.setVr r new).vr = fun i => if i = r then new else s.vr i := by
    funext i
    exact Bank.rd_of_wr rfl i
  rwa [regs] at h

/-- Settles O31: by the selector, whose operation writes the register first and CMD and MODE after it. -/
theorem registerSelectors : Obligations.RegisterSelectors := by
  intro s pending t sel R v put
  obtain ⟨reg, -, -, -, unmarked⟩ := dirtyBit_writeOp (s.vr 0)
  refine ⟨fun range => ?_, fun clr => ?_, fun lo => ?_, fun hi => ?_, fun full => ?_, fun reserved => ?_⟩
  · obtain bit | bit := range.imp reg unmarked
    all_goals
      obtain ⟨-, cram, vram, cgram⟩ := vdpWrite_same pending bit
      exact ⟨cram (by decide), vram (by decide), cgram (by decide), vdpWrite_beyond s⟩
  · exact .of_setVr (vdpWrite_regs (op := .clrReg) pending (writeOp_of_selector clr))
  · rw [← withLo_loByte]
    exact .of_setVr (vdpWrite_regs (op := .wrRegLo) pending (writeOp_of_selector lo))
  · rw [← withHi_loByte]
    exact .of_setVr (vdpWrite_regs (op := .wrRegHi) pending (writeOp_of_selector hi))
  · exact .of_setVr (vdpWrite_regs (op := .wrReg16) pending (writeOp_of_selector full))
  · obtain ⟨regs, -⟩ := vdpWrite_same pending (unmarked reserved)
    exact regs (by decide)

/-! ### Palette selectors (R764 to R767) -/

/-- Settles O32: by the selector. -/
theorem paletteSelectors : Obligations.PaletteSelectors := by
  intro s pending t sel E v puts
  refine ⟨fun low high => ?_, fun clr => ?_, fun lo => ?_, fun hi => ?_, fun full => ?_⟩
  · obtain ⟨-, pal, -⟩ := dirtyBit_writeOp (s.vr 0)
    obtain ⟨regs, -, vram, cgram⟩ := vdpWrite_same pending (pal low high)
    exact ⟨regs (by decide), vram (by decide), cgram (by decide), vdpWrite_beyond s⟩
  · exact Bank.rd_of_wr (vdpWrite_cram (op := .clrPal) pending (writeOp_of_selector clr))
  · rw [← withLo_loByte]
    exact Bank.rd_of_wr (vdpWrite_cram (op := .wrPalLo) pending (writeOp_of_selector lo))
  · rw [← withHi_loByte]
    exact Bank.rd_of_wr (vdpWrite_cram (op := .wrPalHi) pending (writeOp_of_selector hi))
  · exact Bank.rd_of_wr (vdpWrite_cram (op := .wrPal16) pending (writeOp_of_selector full))

/-! ### VRAM and CGRAM selectors (R768 to R773) -/

/-- Every address of a memory after one write. -/
theorem Store.read_of_write {w : Nat} {m n : Store w} {b : Nat} {new : BitVec w} (h : n = m.write b new) (a : Nat) :
    n.read a = if a = b then new else m.read a := by
  rw [h, Store.read_write]
  simp only [eq_comm]

/-- Read after a copy that is not longer than its destination (R780). -/
theorem read_toroidalCopy {w : Nat} (dst : Store w) {cap off : Nat} (src : Store w) (scap soff : Nat) {len : Nat}
    (fits : len ≤ cap) (inside : off < cap) {a : Nat} (ha : a < cap) :
    (toroidalCopy dst cap off src scap soff len).read a =
      if (a + cap - off) % cap < len then src.read ((soff + (a + cap - off) % cap) % scap) else dst.read a := by
  rw [toroidalCopy, if_neg (by omega)]
  exact read_fill_toroidal dst cap off len _ fits inside a ha

/-- Read after a fill that is not longer than its destination (R781). -/
theorem read_toroidalFill {w : Nat} (dst : Store w) {cap off len : Nat} (val : Nat → BitVec w)
    (fits : len ≤ cap) (inside : off < cap) {a : Nat} (ha : a < cap) :
    (toroidalFill dst cap off len val).read a =
      if (a + cap - off) % cap < len then val ((a + cap - off) % cap) else dst.read a := by
  rw [toroidalFill, if_neg (by omega)]
  exact read_fill_toroidal dst cap off len val fits inside a ha

theorem patternByte_eq (pat : Short) (i : Nat) :
    patternByte pat i = BitVec.ofNat 8 (if i % 2 = 0 then pat.toNat / 256 else pat.toNat) := by
  rw [patternByte, hiByte_eq, loByte_eq]
  exact (apply_ite (BitVec.ofNat 8) _ _ _).symm

/-- Settles O33: by the selector; an operand of 16 bits is a length within VRAM, so no bulk operation hits an address
twice. -/
theorem vramSelectors : Obligations.VramSelectors := by
  intro s pending t sel r r2 v
  have fits : v.toNat ≤ 65536 := v.isLt.le
  refine ⟨fun low high => ?_, fun clr => ?_, fun wr => ?_, fun copy a ha => ?_, fun const a ha => ?_,
    fun pat a ha => ?_⟩
  · obtain ⟨-, -, vram, -⟩ := dirtyBit_writeOp (s.vr 0)
    obtain ⟨regs, cram, -, cgram⟩ := vdpWrite_same pending (vram low high)
    exact ⟨regs (by decide), cram (by decide), cgram (by decide), vdpWrite_beyond s⟩
  · exact Store.read_of_write (vdpWrite_vram (op := .clrVram) pending (writeOp_of_selector clr))
  · rw [← loByte_eq]
    exact Store.read_of_write (vdpWrite_vram (op := .wrVram) pending (writeOp_of_selector wr))
  · rw [vdpWrite_vram (op := .copyVram) pending (writeOp_of_selector copy)]
    exact read_toroidalCopy _ _ _ _ fits r2.isLt ha
  · rw [vdpWrite_vram (op := .fillVramConst) pending (writeOp_of_selector const)]
    exact read_toroidalFill _ _ fits (BitVec.isLt _) ha
  · rw [vdpWrite_vram (op := .fillVramPattern) pending (writeOp_of_selector pat)]
    dsimp only
    rw [← patternByte_eq]
    exact read_toroidalFill _ _ fits (BitVec.isLt _) ha

/-- Settles O34: a copy from place 0 of the font's whole length puts the byte of index `o` at `o`. -/
theorem copyCgram : Obligations.CopyCgram := by
  intro s pending sel t r
  have command : writeOp (s.vr 0) = .copyCgram := writeOp_of_selector sel
  obtain ⟨-, -, -, font, -⟩ := dirtyBit_writeOp (s.vr 0)
  obtain ⟨regs, cram, vram, -⟩ := vdpWrite_same pending (font sel)
  refine ⟨regs (by decide), cram (by decide), vram (by decide), vdpWrite_beyond s, fun o ho => ?_⟩
  have index : (o + 1024 - 0) % 1024 = o := by omega
  rw [vdpWrite_cgram pending command]
  refine (read_toroidalCopy s.cgram s.mem 65536 r (le_refl 1024) (by decide) ho).trans ?_
  rw [index, if_pos ho]

/-! ### Read selectors (R756, R790 to R795) -/

/-- The four arms of the read selectors, the last for all others (R791 to R794). -/
theorem vdpResult_cases (s : State) :
    let sel := ((s.vr 0).extractLsb' 0 4).toNat
    (sel = 0 → vdpResult s = s.vr (cmdR (s.vr 0))) ∧
    (sel = 1 → vdpResult s = s.cram.rd (cmdE (s.vr 0))) ∧
    (sel = 2 → vdpResult s = (s.vram.read (s.vr (cmdR (s.vr 0))).toNat).setWidth 16) ∧
    (3 ≤ sel → vdpResult s = 0) := by
  refine ⟨fun h => ?_, fun h => ?_, fun h => ?_, fun h => ?_⟩
  · simp only [vdpResult, VReg.cmd, h]
  · simp only [vdpResult, VReg.cmd, h]
  · simp only [vdpResult, VReg.cmd, h]
  · obtain ⟨k, h⟩ := Nat.exists_eq_add_of_le' h
    simp only [vdpResult, VReg.cmd, h]

/-- Settles O35: the read leaves CMD zero, so the next write latches. -/
theorem readSelectors : Obligations.ReadSelectors := by
  intro s sel R u
  obtain ⟨reg, pal, vram, other⟩ := vdpResult_cases s
  have cancelled : u.vr 0 = 0 := (vdpRead_vr s 0).trans (if_pos rfl)
  have latched : vdpWrite u = u.setVr 0 (portValue u) := vdpWrite_latch u cancelled
  refine ⟨reg, pal, fun h => ?_, other, ?_, ?_, fun i hi => ?_, ?_⟩
  · rw [vram h]
    exact BitVec.toNat_setWidth_of_le (by decide : 8 ≤ 16)
  · rw [vdpRead_fst, hiByte_eq]
  · rw [latched, State.vr_setVr_same]
  · rw [latched, State.vr_setVr_ne _ _ _ _ hi.symm]
    exact (vdpRead_vr s i).trans (if_neg hi.symm)
  · rw [latched]
    exact ⟨rfl, rfl, rfl⟩

end Sys2Proof.Machine
end

section
/-! The family 60_exceptions.md: every state has a next one, what the host's calls change, and who can have called
an invocation on a machine with no external device. -/

namespace Sys2Proof.Machine

/-! ### A step by what executes -/

theorem step_host {s : State} (h : s.phase = .idle) : step s = .next (hostStep s) := by
  simp only [step, h]

theorem step_render {s : State} {pt : RenderPoint} (h : s.phase = .render pt) : step s = .next (renderStep pt s) := by
  simp only [step, h]

theorem step_handler {s : State} {k : HandlerCall} (h : s.phase = .handler k) : step s = handlerStep k s := by
  simp only [step, h]

/-! ### No state stops the machine (R900) -/

/-- Only a nested run beyond MAX_NEST stops a handler's turn (R412). -/
theorem handlerStep_answers {s : State} (k : HandlerCall) (unbounded : s.params.maxNest = none) :
    ∃ t, handlerStep k s = .next t := by
  let reply := Config.extReply s.free (resumeDir k.resume) k.port s
  have left := (apply_all_frame reply.effects (s.setFree (s.free + 1))).1
  cases hr : reply.next with
  | run a =>
    have nests := mayNest_eq_true (.inl (left.params ▸ unbounded))
    exact ⟨_, (handlerStep_run hr).trans (if_pos nests)⟩
  | ret v => exact ⟨_, handlerStep_ret hr⟩

/-- Settles O6, by the four kinds of step. -/
theorem everyStepAnswersNext : Obligations.EveryStepAnswersNext := by
  intro s unbounded
  cases h : s.phase with
  | idle => exact ⟨_, step_host h⟩
  | run =>
    obtain ⟨t, ht⟩ := exec_answers (fetchInstr s) s
    exact ⟨_, step_of_exec h ht⟩
  | render pt => exact ⟨_, step_render h⟩
  | handler k =>
    rw [step_handler h]
    exact handlerStep_answers k unbounded

/-! ### The host's calls (R930) -/

/-- An idle machine serves the first call of the queue (R931). -/
theorem step_serve {s : State} {c : HostCall} {rest : List HostCall} (idle : s.phase = .idle)
    (calls : s.hostCalls = c :: rest) : step s = .next ((s.setHostCalls rest).serve c) := by
  rw [step_host idle, hostStep, calls]

/-- Settles O53, by the first call of the queue. -/
theorem hostCallsServed : Obligations.HostCallsServed := by
  intro s rest idle
  refine ⟨fun a calls => ?run, fun buf calls => ?render, fun off image calls => ?load, fun calls => ?none⟩
  case run => exact step_serve idle calls
  case render => exact step_serve idle calls
  case load =>
    refine ⟨_, step_serve idle calls, rfl, fun i hi last => ?_, fun a outside => ?_⟩
    · exact read_bulkLoad image s.mem off.toNat i hi last
    · exact read_bulkLoad_ne image s.mem off.toNat a outside
  case none => rw [step_host idle, hostStep, calls]

/-! ### Who called an invocation, with no external device (R903, R931) -/

/-- EXT_PORTS is empty (R710). -/
def NoExternalPorts (c : Params) : Prop := c.extReadPorts = [] ∧ c.extWritePorts = []

/-- `nestingOk` of what executes and its callers. -/
def Nested (s : State) : Prop := nestingOk s.phase s.callers = true

theorem State.closed_iff (s : State) : s.closed = true ↔ NoExternalPorts s.params ∧ Nested s := by
  simp only [State.closed, NoExternalPorts, Nested, Bool.and_eq_true, List.isEmpty_iff]

theorem Nested.of_eq {s t : State} (h : Nested s) (phase : t.phase = s.phase) (callers : t.callers = s.callers) :
    Nested t := by
  rwa [Nested, phase, callers]

/-- Outside of an invocation nothing is suspended. -/
theorem Nested.callers_eq_nil {s : State} (h : Nested s) (notRun : s.phase ≠ .run) : s.callers = [] := by
  unfold Nested nestingOk at h
  split at h
  · assumption
  · assumption
  · assumption
  · next e _ => exact absurd e notRun
  · next e _ => exact absurd e notRun
  · cases h

theorem Nested.not_handler {s : State} {k : HandlerCall} (h : Nested s) (waiting : s.phase = .handler k) : False := by
  simp [Nested, nestingOk, waiting] at h

/-- An invocation is the host's or the renderer's. -/
theorem Nested.callers_of_run {s : State} (h : Nested s) (run : s.phase = .run) :
    s.callers = [] ∨ ∃ pt, s.callers = [.render pt] := by
  unfold Nested nestingOk at h
  rw [run] at h
  split at h
  · exact .inl ‹_›
  · exact .inl ‹_›
  · exact .inl ‹_›
  · exact .inr ⟨_, ‹_›⟩
  · exact .inr ⟨_, ‹_›⟩
  · cases h

theorem nested_leave {s : State} (h : Nested s) (run : s.phase = .run) (r : RunResult) : Nested (s.leave r) := by
  obtain host | ⟨pt, vector⟩ := h.callers_of_run run
  · rw [State.leave_host s r host]
    simp [Nested, nestingOk, host]
  · rw [State.leave_render s r pt [] vector]
    rfl

theorem nested_settle {s : State} (h : Nested s) (run : s.phase = .run) (wrapped : Bool) :
    Nested (s.settle wrapped) := by
  cases wrapped with
  | false => exact h
  | true =>
    rw [State.settle_complete (by simp [run])]
    have counted : Nested (s.setFree (s.free + 1)) := h
    obtain ⟨-, e⟩ | ⟨-, e⟩ | ⟨-, e | e⟩ := s.runOffPoint_cases
    · rwa [e]
    · rw [e]
      exact nested_leave h run .ranOff
    · rw [e]
      exact nested_leave counted run .ranOff
    · rwa [e]

/-- Without external ports no instruction waits for a handler. -/
theorem PhaseKept.phase_of_no_ports {s t : State} (kept : PhaseKept s t) (ports : NoExternalPorts s.params) :
    t.phase = s.phase := by
  obtain ⟨noRead, noWrite⟩ := ports
  obtain same | ⟨p, -, -, ext⟩ := kept
  · exact same
  · simp [ExtRead, ExtWrite, noRead, noWrite] at ext

/-- An instruction and RUN_OFF's check, which a BRK never meets (R410). -/
theorem nested_exec {i : Instr} {s t : State} (ports : NoExternalPorts s.params) (h : Nested s) (run : s.phase = .run)
    (ht : exec i s = .next t) (wrapped : Bool) (brk : i = .brk → wrapped = false) : Nested (t.settle wrapped) := by
  by_cases hi : i = .brk
  · subst hi
    cases ht
    rw [brk rfl]
    exact nested_leave (s := s.advance 1) h run .halted
  · obtain ⟨u, hu, frame, kept⟩ := exec_frame i s hi
    cases hu.symm.trans ht
    have phase := kept.phase_of_no_ports ports
    exact nested_settle (Nested.of_eq h phase frame.callers) (phase.trans run) wrapped

theorem nested_hostStep {s : State} (h : Nested s) (idle : s.phase = .idle) : Nested (hostStep s) := by
  have host : s.callers = [] := h.callers_eq_nil (by simp [idle])
  unfold hostStep
  split
  · exact h
  · next c rest _ => cases c <;> simp [Nested, nestingOk, State.serve, State.enter, host, idle]

/-- A frame's step enters a vector of its own or stands before the next step with no caller. -/
theorem nested_renderStep {s : State} (host : s.callers = []) (pt : RenderPoint) : Nested (renderStep pt s) := by
  cases pt with
  | vblank =>
    rw [renderStep, renderVblank]
    split <;> simp [Nested, nestingOk, State.enter, host]
  | skipTest =>
    rw [renderStep, renderSkipTest]
    split <;> simp [Nested, nestingOk, State.setVr, host]
  | rowStart y =>
    rw [renderStep, renderRowStart]
    split <;> simp [Nested, nestingOk, State.enter, buildSpriteCache, host]
  | rowDraw y =>
    rw [renderStep, renderRowDraw_eq, nextRow]
    split <;> simp [Nested, nestingOk, drawRow, rowDrawState, host]

/-- Settles O49, by the four kinds of step: a handler's cannot occur, and an instruction that ends the invocation
hands over to a caller that is the host or the renderer. -/
theorem stepKeepsNesting : Obligations.StepKeepsNesting := by
  intro s t closed ht
  obtain ⟨ports, h⟩ := s.closed_iff.1 closed
  refine t.closed_iff.2 ⟨by rwa [step_params ht], ?_⟩
  cases hp : s.phase with
  | idle =>
    cases (step_host hp).symm.trans ht
    exact nested_hostStep h hp
  | run =>
    obtain ⟨u, hu⟩ := exec_answers (fetchInstr s) s
    cases (step_of_exec hp hu).symm.trans ht
    exact nested_exec ports h hp hu _ fun brk => fetchWraps_eq_false (.inl brk)
  | render pt =>
    cases (step_render hp).symm.trans ht
    exact nested_renderStep (h.callers_eq_nil (by simp [hp])) pt
  | handler k => exact (h.not_handler hp).elim

end Sys2Proof.Machine
end

section
/-! The family 48_vdp_renderer.md, part one: the layers' pixels, the sprite row cache, the palette words, and the
pixel made of them. -/

namespace Sys2Proof.Machine

/-! ### Fields and words -/

theorem toNat_append_add {m n : Nat} (a : BitVec m) (b : BitVec n) : (a ++ b).toNat = a.toNat * 2 ^ n + b.toNat := by
  rw [BitVec.toNat_append, ← Nat.shiftLeft_add_eq_or_of_lt b.isLt, Nat.shiftLeft_eq]

theorem cellRow_toNat (e : Short) : (cellRow e).toNat = e.toNat / 2 ^ 13 % 4 := by
  simp [cellRow, Nat.shiftRight_eq_div_pow]

/-- Settles O43, by the nibble. -/
theorem layerPixelIndex : Obligations.LayerPixelIndex := by
  refine fun e v => ⟨fun transparent => if_pos transparent, fun visible => ⟨_, if_neg visible, rfl, ?_⟩⟩
  show (cellRow e ++ v).toNat = _
  rw [BitVec.toNat_append, cellRow_toNat]

/-- A channel's 4 bits twice are its value times 0x11 (R806). -/
theorem expand4_toNat (c : BitVec 4) : (expand4 c).toNat = c.toNat * 0x11 := by
  rw [expand4, toNat_append_add]
  omega

theorem rgba_toNat (c : Short) :
    (rgba c).toNat = c.toNat / 256 % 16 * 0x11 * 2 ^ 24 + c.toNat / 16 % 16 * 0x11 * 2 ^ 16 +
      c.toNat % 16 * 0x11 * 2 ^ 8 + 0xFF := by
  simp only [rgba, toNat_append_add, expand4_toNat, BitVec.extractLsb'_toNat, Nat.shiftRight_eq_div_pow,
    show (0xFF : Byte).toNat = 0xFF from rfl]
  omega

/-- Settles O41, by the channels of one word. -/
theorem paletteRebuild : Obligations.PaletteRebuild := by
  refine fun s i => ⟨?_, rfl⟩
  rw [← rgba_toNat, ← Bank.rd_mapAll s.cram rgba i]
  rfl

/-! ### Planes (R826) -/

/-- Settles O56: the cell's entry and its flips in the rule's arithmetic, and its nibble as a layer pixel. -/
theorem planePixelValue : Obligations.PlanePixelValue := by
  intro vram base scx scy x y px py e tx ty
  let cell := vramWord vram (base.toNat + 2 * (py / 8 * 64 + px / 8))
  have entry : e = cell.toNat := (vramWord_toNat _ _).symm
  have plane : planePixel vram base scx scy x y = layerPixel cell (patternPixel vram (e % 2048) tx ty) := by
    simp only [planePixel, cellHflip_eq, cellVflip_eq, cellPid_eq, decide_eq_true_eq, tx, ty, entry]
    rfl
  rw [plane, ← patternPixel_toNat, entry]
  exact layerPixel_shows _ _

/-! ### Sprite entries and the row's match (R811, R812) -/

theorem spritePixels_bounds (bits : Nat) : 0 < spritePixels bits ∧ spritePixels bits ≤ 32 := by
  unfold spritePixels
  omega

/-- A sprite reaches a column of the screen where its first column is one of them or its last one wraps past column
0 (R812). -/
theorem exists_column_iff {X w : Nat} (hX : X < 512) (hw : 0 < w ∧ w ≤ 32) :
    (∃ c, c < 320 ∧ (c + 512 - X) % 512 < w) ↔ X < 320 ∨ 512 - w < X := by
  constructor
  · rintro ⟨c, hc, reach⟩
    omega
  · rintro (first | wrapped)
    · exact ⟨X, first, by omega⟩
    · exact ⟨0, by decide, by omega⟩

/-- Settles O58: the words by their addresses, and the match conjunct by conjunct. -/
theorem spriteEntryAndMatch : Obligations.SpriteEntryAndMatch := by
  refine ⟨fun s i => ⟨vramWord_toNat _ _, vramWord_toNat _ _, vramWord_toNat _ _, vramWord_toNat _ _⟩, fun e y => ?_⟩
  have columns :=
    exists_column_iff (Nat.mod_lt e.x.toNat (by decide : 0 < 512)) (spritePixels_bounds (e.w1.toNat / 1024))
  simp only [columns, spriteMatch, cellPid_eq, spriteCoord_eq, spriteW_eq, spriteH_eq, wrapSub, Bool.and_eq_true,
    Bool.or_eq_true, decide_eq_true_eq, and_assoc]

/-! ### The sprite row cache (R810) -/

/-- A row's cache: its matches, the sentinel, and the old slots above. -/
theorem buildSpriteCache_cells (y : Nat) (s : State) :
    let found := spriteWalk s y 320 0 0
    (buildSpriteCache y s).scache.cells = found ++ SpriteSlot.zero :: s.scache.cells.drop (found.length + 1) := by
  intro found
  have room : found.length ≤ 32 := length_spriteWalk s y 320 0 0 (by decide)
  have cells := cells_storeSlots s.scache 0 found (by omega)
  rwa [List.take_zero, List.nil_append, Nat.zero_add] at cells

/-- Settles O39: the walk is the one of `spriteWalk_eq_spritesOf`, and its matches are what the cache begins with. -/
theorem spriteRowCache : Obligations.SpriteRowCache := by
  intro s y
  obtain ⟨walk, first, length, found, steps, ends⟩ :=
    spriteWalk_eq_spritesOf s y 320 0 0 (by decide) (by decide)
  have room := length_spriteWalk s y 320 0 0 (by decide)
  have cells := buildSpriteCache_cells y s
  simp only [spriteLink_eq, Nat.zero_add, Nat.add_zero, found] at steps ends room cells
  refine ⟨walk, first, length, room, steps, ends, fun j hj => ?_, ?_, fun j hj => ?_⟩
  · rw [cells, List.getElem?_append_left hj]
  · rw [cells, List.getElem?_append_right le_rfl, Nat.sub_self]
    rfl
  · obtain ⟨k, rfl⟩ := Nat.exists_eq_add_of_lt hj
    rw [cells, List.getElem?_append_right hj.le, show ∀ n, n + k + 1 - n = k + 1 by omega, List.getElem?_cons_succ,
      List.getElem?_drop, Nat.add_right_comm]

/-! ### Which layer shows (R824, R833) -/

/-- A layer with an opaque priority pixel. -/
def HighLayer (o : Option LayerPixel) : Prop := ∃ p, o = some p ∧ p.pri = true

theorem find_pri_of_low {layers : List (Option LayerPixel)} (low : ∀ o ∈ layers, ¬ HighLayer o) :
    (layers.filterMap id).find? (fun p => p.pri) = none := by
  rw [List.find?_eq_none]
  intro p hp pri
  obtain ⟨o, ho, rfl⟩ := List.mem_filterMap.1 hp
  exact low _ ho ⟨p, rfl, pri⟩

/-- The first opaque priority pixel wins. -/
theorem resolve_of_high {before after : List (Option LayerPixel)} {o : Option LayerPixel} (high : HighLayer o)
    (low : ∀ q ∈ before, ¬ HighLayer q) : resolve (before ++ o :: after) = o := by
  obtain ⟨p, rfl, pri⟩ := high
  have found : ((before ++ some p :: after).filterMap id).find? (fun p => p.pri) = some p := by
    rw [List.filterMap_append, List.find?_append, find_pri_of_low low]
    exact List.find?_cons_of_pos pri
  rw [resolve, found]

/-- Without one, the first opaque pixel does. -/
theorem resolve_of_low {before after : List (Option LayerPixel)} {o : Option LayerPixel} (visible : o ≠ none)
    (low : ∀ q ∈ before ++ o :: after, ¬ HighLayer q) (transparent : ∀ q ∈ before, q = none) :
    resolve (before ++ o :: after) = o := by
  have none_high := find_pri_of_low low
  obtain ⟨p, rfl⟩ := Option.ne_none_iff_exists'.1 visible
  have skipped : before.filterMap id = [] := List.filterMap_eq_nil_iff.2 transparent
  rw [resolve, none_high, List.filterMap_append, skipped]
  rfl

theorem resolve_of_transparent {layers : List (Option LayerPixel)} (transparent : ∀ o ∈ layers, o = none) :
    resolve layers = none := by
  have skipped : layers.filterMap id = [] := List.filterMap_eq_nil_iff.2 transparent
  rw [resolve, skipped]
  rfl

/-- The cached sprites' pixels at a place resolve as the layers do (R824). -/
theorem spritePixel_eq_resolve (s : State) (x y : Nat) :
    spritePixel s x y =
      resolve ((s.scache.cells.takeWhile (fun e => e.w0 != 0)).map (fun e => spriteAt s.vram e x y)) := by
  rw [spritePixel, spriteScan_eq, resolve, List.filterMap_map]
  rfl

theorem Shows.eq_none_iff {o : Option LayerPixel} {e v : Nat} (h : Shows o e v) : o = none ↔ v = 0 := by
  obtain ⟨transparent, visible⟩ := h
  refine ⟨fun none => by_contra fun hv => ?_, transparent⟩
  obtain ⟨p, hp, -⟩ := visible hv
  cases none.symm.trans hp

theorem Shows.high_iff {o : Option LayerPixel} {e v : Nat} (h : Shows o e v) : HighLayer o ↔ v ≠ 0 ∧ 32768 ≤ e := by
  by_cases hv : v = 0
  · rw [h.eq_none_iff.2 hv]
    simp [HighLayer, hv]
  · obtain ⟨p, rfl, -, priority⟩ := h.2 hv
    simp [HighLayer, hv, priority]

/-- Settles O57: each cached sprite's pixel is what its nibble shows, and the layer is the first of them that the
resolution picks. -/
theorem spritePixelValue : Obligations.SpritePixelValue := by
  intro s x y shown v pri
  let pixelAt : SpriteSlot → Option LayerPixel := fun e => spriteAt s.vram e x y
  have each : ∀ e, Shows (pixelAt e) e.w0.toNat (v e) := fun e => spriteAt_shows s.vram e x y
  have layer : spritePixel s x y = resolve (shown.map pixelAt) := spritePixel_eq_resolve s x y
  have pixelAt_low : ∀ e, v e = 0 ∨ ¬ pri e → ¬ HighLayer (pixelAt e) := fun e low high =>
    have ⟨hv, hpri⟩ := (each e).high_iff.1 high
    low.elim hv (fun h => h hpri)
  refine ⟨fun transparent => ?_, fun before e after split hv hpri low => ?_,
    fun before e after split hv low transparent => ?_⟩
  · rw [layer]
    exact resolve_of_transparent (List.forall_mem_map.2 fun e he => (each e).eq_none_iff.2 (transparent e he))
  · have wins : spritePixel s x y = pixelAt e := by
      rw [layer, split, List.map_append, List.map_cons]
      exact resolve_of_high ((each e).high_iff.2 ⟨hv, hpri⟩)
        (List.forall_mem_map.2 fun f hf => pixelAt_low f (low f hf))
    exact wins ▸ each e
  · have none_high : ∀ o ∈ shown.map pixelAt, ¬ HighLayer o :=
      List.forall_mem_map.2 fun f hf => pixelAt_low f (low f hf)
    have wins : spritePixel s x y = pixelAt e := by
      rw [split, List.map_append, List.map_cons] at none_high
      rw [layer, split, List.map_append, List.map_cons]
      exact resolve_of_low (mt (each e).eq_none_iff.1 hv) none_high
        (List.forall_mem_map.2 fun f hf => (each f).eq_none_iff.2 (transparent f hf))
    exact wins ▸ each e

/-! ### Text and priority (R820 to R823, R833) -/

theorem bgIndex_eq (mode : Short) : bgIndex mode = BitVec.ofNat 6 (mode.toNat / 16 % 4 * 16) := by
  apply BitVec.eq_of_toNat_eq
  rw [bgIndex, toNat_append_add, BitVec.extractLsb'_toNat, Nat.shiftRight_eq_div_pow, BitVec.toNat_ofNat,
    show (0 : BitVec 4).toNat = 0 from rfl]
  omega

theorem textCell_eq (s : State) (x y : Nat) :
    textCell s x y = s.vram.read (((s.vr 8).toNat + y / 8 * 40 + x / 8) % 65536) := rfl

theorem pixel_of_text {s : State} {x y : Nat} (enabled : (s.vr 1).getLsbD 2 = true) (cell : textCell s x y ≠ 0) :
    pixel s x y = textPixel s (textCell s x y) x y := by
  have drawn : (textEn (s.vr VReg.mode) && textCell s x y != 0) = true := by
    rw [Bool.and_eq_true, bne_iff_ne]
    exact ⟨enabled, cell⟩
  exact if_pos drawn

/-- The two inversions cancel, and one is left where exactly one of the cell's high bit and the glyph's bit is set
(R820, R822). -/
theorem textPixel_eq (s : State) (t : Byte) (x y : Nat) :
    let bg := s.pcache.rd (BitVec.ofNat 6 ((s.vr 1).toNat / 16 % 4 * 16))
    textPixel s t x y =
      if t.getLsbD 7 = (s.cgram.read (8 * (t.toNat % 128) + y % 8)).getLsbD (7 - x % 8) then bg
      else bg ^^^ 0xFFFFFF00 := by
  have glyph : (t.extractLsb' 0 7).toNat = t.toNat % 128 := by simp
  rw [textPixel, bgIndex_eq, glyph]
  dsimp only
  cases t.getLsbD 7 <;> cases (s.cgram.read (8 * (t.toNat % 128) + y % 8)).getLsbD (7 - x % 8) <;>
    simp [invertIf, VReg.mode]

/-- Settles O45: both states draw the text pixel, and it reads only what they share. -/
theorem textLaw : Obligations.TextLaw := by
  intro s s' x y cell t glyph bg enabled nonzero
  have drawn : pixel s x y = textPixel s t x y := pixel_of_text enabled nonzero
  refine ⟨drawn.trans (textPixel_eq s t x y), fun mode base sameCell sameGlyph cache => ?_⟩
  have cell' : textCell s' x y = t := by rw [textCell_eq, base, sameCell]
  have drawn' : pixel s' x y = textPixel s' t x y := by
    rw [pixel_of_text (by rwa [mode]) (by rwa [cell']), cell']
  rw [drawn, drawn', textPixel_eq, textPixel_eq, mode, sameGlyph, cache]

/-- Where no text is drawn, the pixel is the palette entry of the layer that shows, or of the background. -/
theorem pixel_of_layers {s : State} {x y : Nat} {o : Option LayerPixel}
    (off : (s.vr 1).getLsbD 2 = false ∨ textCell s x y = 0)
    (shown : resolve [spritePixel s x y, planePixel s.vram (s.vr 10) (s.vr 12) (s.vr 13) x y,
      planePixel s.vram (s.vr 11) (s.vr 14) (s.vr 15) x y] = o) :
    pixel s x y = s.pcache.rd (o.elim (BitVec.ofNat 6 ((s.vr 1).toNat / 16 % 4 * 16)) LayerPixel.index) := by
  have notDrawn : ¬ (textEn (s.vr VReg.mode) && textCell s x y != 0) = true := by
    rw [Bool.and_eq_true, bne_iff_ne]
    rintro ⟨enabled, cell⟩
    exact off.elim (fun h => by cases h.symm.trans enabled) cell
  rw [← bgIndex_eq]
  refine (if_neg notDrawn).trans ?_
  split
  · next p h =>
    cases shown.symm.trans h
    rfl
  · next h =>
    cases shown.symm.trans h
    rfl

theorem forall_mem_pair {α : Type} {p : α → Prop} {a b : α} (ha : p a) (hb : p b) : ∀ c ∈ [a, b], p c :=
  List.forall_mem_cons.2 ⟨ha, List.forall_mem_singleton.2 hb⟩

/-- Settles O46, by the layer that the resolution picks in each of the seven cases. -/
theorem priorityResolution : Obligations.PriorityResolution := by
  intro s x y l a b high low off
  have not_high : ∀ {o : Option LayerPixel}, o = none → low o := fun h ⟨p, hp, _⟩ => by cases h.symm.trans hp
  have all_low : low l → low a → low b → ∀ o ∈ [l, a, b], ¬ HighLayer o := fun lowL lowA lowB =>
    List.forall_mem_cons.2 ⟨lowL, forall_mem_pair lowA lowB⟩
  refine ⟨fun p hl pri => ?_, fun p lowL ha pri => ?_, fun p lowL lowA hb pri => ?_, fun p lowL lowA lowB hl => ?_,
    fun p lowA lowB hl ha => ?_, fun p lowB hl ha hb => ?_, fun hl ha hb => ?_⟩
  · have wins : resolve ([] ++ l :: [a, b]) = l := resolve_of_high ⟨p, hl, pri⟩ (List.forall_mem_nil _)
    exact pixel_of_layers off (wins.trans hl)
  · have wins : resolve ([l] ++ a :: [b]) = a := resolve_of_high ⟨p, ha, pri⟩ (List.forall_mem_singleton.2 lowL)
    exact pixel_of_layers off (wins.trans ha)
  · have wins : resolve ([l, a] ++ b :: []) = b := resolve_of_high ⟨p, hb, pri⟩ (forall_mem_pair lowL lowA)
    exact pixel_of_layers off (wins.trans hb)
  · have wins : resolve ([] ++ l :: [a, b]) = l :=
      resolve_of_low (by simp [hl]) (all_low lowL lowA lowB) (List.forall_mem_nil _)
    exact pixel_of_layers off (wins.trans hl)
  · have wins : resolve ([l] ++ a :: [b]) = a :=
      resolve_of_low (by simp [ha]) (all_low (not_high hl) lowA lowB) (List.forall_mem_singleton.2 hl)
    exact pixel_of_layers off (wins.trans ha)
  · have wins : resolve ([l, a] ++ b :: []) = b :=
      resolve_of_low (by simp [hb]) (all_low (not_high hl) (not_high ha) lowB) (forall_mem_pair hl ha)
    exact pixel_of_layers off (wins.trans hb)
  · have none_shows : resolve [l, a, b] = none :=
      resolve_of_transparent (List.forall_mem_cons.2 ⟨hl, forall_mem_pair ha hb⟩)
    exact pixel_of_layers off none_shows

end Sys2Proof.Machine
end

section
/-! The family 48_vdp_renderer.md, part two: the steps of a frame, what they write and read, and a whole frame. -/

namespace Sys2Proof.Machine

/-! ### The two blank vectors and the skip test (R801, R802, R805) -/

theorem renderVblank_vector {s : State} (on : (s.vr 1).getLsbD 0 = true) :
    renderVblank s = { s with phase := .run, pc := s.vr 5, callers := .render .skipTest :: s.callers } :=
  if_pos on

theorem renderVblank_no_vector {s : State} (off : (s.vr 1).getLsbD 0 = false) :
    renderVblank s = { s with phase := .render .skipTest } :=
  if_neg (Bool.eq_false_iff.1 off)

/-- Settles O36, by VBLANK_EN. -/
theorem verticalBlank : Obligations.VerticalBlank := fun _ point =>
  ⟨fun on => (step_render point).trans (congrArg _ (renderVblank_vector on)),
    fun off => (step_render point).trans (congrArg _ (renderVblank_no_vector off))⟩

theorem anyDirty_iff (mode : Short) : anyDirty mode = true ↔ mode.extractLsb' 12 4 ≠ 0 := bne_iff_ne

theorem renderSkipTest_skipped {s : State} (clean : (s.vr 1).extractLsb' 12 4 = 0) :
    renderSkipTest s = { s with phase := .idle } :=
  if_neg fun dirty => (anyDirty_iff _).1 dirty clean

theorem renderSkipTest_drawn {s : State} (dirty : (s.vr 1).extractLsb' 12 4 ≠ 0) :
    renderSkipTest s = (s.setVr 1 (s.vr 1 ||| 0x2000)).setPhase (.render (.rowStart 0)) :=
  if_pos ((anyDirty_iff _).2 dirty)

/-- Settles O37, by the dirty bits. -/
theorem wholeFrameSkip : Obligations.WholeFrameSkip := by
  intro s point
  refine ⟨fun clean => ?_, fun dirty => ?_⟩
  · exact (step_render point).trans (congrArg _ (renderSkipTest_skipped clean))
  · refine ⟨_, (step_render point).trans (congrArg _ (renderSkipTest_drawn dirty)), rfl, ?_, fun i hi => ?_⟩
    · exact State.vr_setVr_same s 1 _
    · exact State.vr_setVr_ne s 1 i _ hi.symm

theorem buildSpriteCache_vr (y : Nat) (s : State) (i : BitVec 4) : (buildSpriteCache y s).vr i = s.vr i := rfl

theorem buildSpriteCache_setScache (y : Nat) (s : State) : ∃ c, buildSpriteCache y s = s.setScache c := ⟨_, rfl⟩

theorem renderRowStart_vector {s : State} {y : Fin 224} (on : (s.vr 1).getLsbD 1 = true)
    (line : (s.vr 7).toNat = y.val) :
    renderRowStart y s = { s with
      scache := (buildSpriteCache y s).scache, phase := .run, pc := s.vr 6,
      callers := .render (.rowDraw y) :: s.callers } := by
  have both : (hblankEn (s.vr VReg.mode) && (s.vr VReg.hblankLine).toNat == y.val) = true :=
    Bool.and_eq_true_iff.2 ⟨on, beq_iff_eq.2 line⟩
  simp only [renderRowStart, buildSpriteCache_vr, both, if_true]
  obtain ⟨c, built⟩ := buildSpriteCache_setScache y s
  rw [built]
  rfl

theorem renderRowStart_no_vector {s : State} {y : Fin 224}
    (off : (s.vr 1).getLsbD 1 = false ∨ (s.vr 7).toNat ≠ y.val) :
    renderRowStart y s = { s with scache := (buildSpriteCache y s).scache, phase := .render (.rowDraw y) } := by
  have notBoth : (hblankEn (s.vr VReg.mode) && (s.vr VReg.hblankLine).toNat == y.val) = false :=
    Bool.and_eq_false_iff.2 (off.imp id beq_false_of_ne)
  simp only [renderRowStart, buildSpriteCache_vr, notBoth, Bool.false_eq_true, if_false]
  obtain ⟨c, built⟩ := buildSpriteCache_setScache y s
  rw [built]
  rfl

/-- Settles O38, by HBLANK_EN and the trigger line. -/
theorem horizontalBlank : Obligations.HorizontalBlank := fun _ _ point =>
  ⟨fun on line => (step_render point).trans (congrArg _ (renderRowStart_vector on line)),
    fun off => (step_render point).trans (congrArg _ (renderRowStart_no_vector off))⟩

/-! ### A row's drawing (R804, R806, R807) -/

theorem rowDrawState_vr (s : State) (i : BitVec 4) :
    (rowDrawState s).vr i = if 1 = i then s.vr 1 &&& 0x0FFF else s.vr i :=
  Bank.rd_wr s.vreg 1 i _

theorem rowDrawState_pcache_clean {s : State} (clean : (s.vr 1).getLsbD 13 = false) :
    (rowDrawState s).pcache = s.pcache :=
  if_neg (Bool.eq_false_iff.1 clean)

theorem rowDrawState_pcache_dirty {s : State} (dirty : (s.vr 1).getLsbD 13 = true) :
    (rowDrawState s).pcache = s.cram.mapAll rgba :=
  if_pos dirty

/-- The frame's phase with `n` rows drawn. -/
def rowPhase (n : Nat) : Phase := if h : n < 224 then .render (.rowStart ⟨n, h⟩) else .idle

theorem nextRow_eq (y : Fin 224) : nextRow y = rowPhase (y.val + 1) := rfl

theorem rowPhase_row {n : Nat} (h : n < 224) : rowPhase n = .render (.rowStart ⟨n, h⟩) := dif_pos h

theorem rowPhase_end {n : Nat} (h : ¬ n < 224) : rowPhase n = .idle := dif_neg h

/-- Settles O40: the registers and the palette cache are those of `rowDrawState`, and the phase the next row's. -/
theorem dirtyBitsCleared : Obligations.DirtyBitsCleared := by
  intro s y point
  have row := step_render point
  rw [renderStep, renderRowDraw_eq] at row
  refine ⟨_, row, (rowDrawState_vr s 1).trans (if_pos rfl), fun i hi => (rowDrawState_vr s i).trans (if_neg hi.symm),
    rowDrawState_pcache_clean, rowDrawState_pcache_dirty, ?_⟩
  rw [State.setPhase_phase, nextRow_eq]
  by_cases more : y.val + 1 < 224
  · rw [rowPhase_row more]
    exact ⟨.inr ⟨_, rfl, rfl⟩, nofun, fun last => by omega⟩
  · rw [rowPhase_end more]
    exact ⟨.inl rfl, fun _ => by omega, fun _ => rfl⟩

theorem renderRowDraw_buf (y : Fin 224) (s : State) (a : Nat) :
    (renderRowDraw y s).buf.read a =
      if y.val * 320 ≤ a ∧ a < y.val * 320 + 320 then pixel (rowDrawState s) (a - y.val * 320) y else s.buf.read a := by
  rw [renderRowDraw_eq]
  exact drawRow_buf y (rowDrawState s) a

/-- A row's pixels are not read again: they show the state the row leaves. -/
theorem pixel_renderRowDraw (y : Fin 224) (s : State) (x z : Nat) :
    pixel (renderRowDraw y s) x z = pixel (rowDrawState s) x z := by
  rw [renderRowDraw_eq]
  exact pixel_congr _ _ _ _ rfl rfl rfl rfl rfl

theorem renderRowDraw_row (y : Fin 224) (s : State) {x : Nat} (hx : x < 320) :
    (renderRowDraw y s).buf.read (y.val * 320 + x) = pixel (rowDrawState s) x y := by
  rw [renderRowDraw_buf, if_pos (by omega), Nat.add_sub_cancel_left]

/-! ### What a step of the renderer writes (R809) -/

theorem low_of_or_dirty (mode : Short) : (mode ||| 0x2000).extractLsb' 0 12 = mode.extractLsb' 0 12 := by
  rw [BitVec.extractLsb'_or, show (0x2000 : Short).extractLsb' 0 12 = 0#12 by decide, BitVec.or_zero]

theorem low_of_and_clean (mode : Short) : (mode &&& 0x0FFF).extractLsb' 0 12 = mode.extractLsb' 0 12 := by
  rw [BitVec.extractLsb'_and, show (0x0FFF : Short).extractLsb' 0 12 = BitVec.allOnes 12 by decide,
    BitVec.and_allOnes]

theorem RendererKeeps.setVr_mode (s : State) {v : Short} (low : v.extractLsb' 0 12 = (s.vr 1).extractLsb' 0 12) :
    RendererKeeps s (s.setVr 1 v) :=
  ⟨rfl, rfl, rfl, rfl, rfl, rfl, rfl, fun i hi => State.vr_setVr_ne s 1 i v hi.symm,
    (congrArg _ (State.vr_setVr_same s 1 v)).trans low⟩

theorem RendererKeeps.trans {s t u : State} (h : RendererKeeps s t) (k : RendererKeeps t u) : RendererKeeps s u where
  mem := k.mem.trans h.mem
  wst := k.wst.trans h.wst
  rst := k.rst.trans h.rst
  dev := k.dev.trans h.dev
  cram := k.cram.trans h.cram
  vram := k.vram.trans h.vram
  cgram := k.cgram.trans h.cgram
  regs := fun i hi => (k.regs i hi).trans (h.regs i hi)
  modeLow := k.modeLow.trans h.modeLow

theorem RendererKeeps.rowDraw (y : Fin 224) (s : State) : RendererKeeps s (renderRowDraw y s) := by
  rw [renderRowDraw_eq]
  have cleaned := RendererKeeps.setVr_mode s (low_of_and_clean (s.vr 1))
  exact ⟨rfl, rfl, rfl, rfl, rfl, rfl, rfl, cleaned.regs, cleaned.modeLow⟩

theorem renderStep_keeps (pt : RenderPoint) (s : State) : RendererKeeps s (renderStep pt s) := by
  cases pt with
  | vblank =>
    rw [renderStep, renderVblank_eq]
    exact ⟨rfl, rfl, rfl, rfl, rfl, rfl, rfl, fun _ _ => rfl, rfl⟩
  | skipTest =>
    rw [renderStep, renderSkipTest]
    split
    · have forced := RendererKeeps.setVr_mode s (low_of_or_dirty (s.vr 1))
      exact ⟨rfl, rfl, rfl, rfl, rfl, rfl, rfl, forced.regs, forced.modeLow⟩
    · exact ⟨rfl, rfl, rfl, rfl, rfl, rfl, rfl, fun _ _ => rfl, rfl⟩
  | rowStart y =>
    rw [renderStep, renderRowStart_eq]
    exact ⟨rfl, rfl, rfl, rfl, rfl, rfl, rfl, fun _ _ => rfl, rfl⟩
  | rowDraw y => exact .rowDraw y s

/-- Only a row's drawing writes pixels and palette words, and only a row's start the sprite cache. -/
theorem renderStep_writes (pt : RenderPoint) (s : State) :
    ((∃ y, pt = .rowDraw y) ∨ (renderStep pt s).buf = s.buf ∧ (renderStep pt s).pcache = s.pcache) ∧
    ((∃ y, pt = .rowStart y) ∨ (renderStep pt s).scache = s.scache) := by
  cases pt with
  | vblank =>
    rw [renderStep, renderVblank_eq]
    exact ⟨.inr ⟨rfl, rfl⟩, .inr rfl⟩
  | skipTest =>
    rw [renderStep, renderSkipTest_eq]
    exact ⟨.inr ⟨rfl, rfl⟩, .inr rfl⟩
  | rowStart y =>
    rw [renderStep, renderRowStart_eq]
    exact ⟨.inr ⟨rfl, rfl⟩, .inl ⟨y, rfl⟩⟩
  | rowDraw y =>
    rw [renderStep, renderRowDraw_eq]
    exact ⟨.inl ⟨y, rfl⟩, .inr rfl⟩

/-! ### What a step of the renderer reads (R809) -/

/-- Two states agree on all that the renderer reads but the palette. -/
structure SameView (s s' : State) : Prop where
  vreg : s'.vreg = s.vreg
  vram : s'.vram = s.vram
  cgram : s'.cgram = s.cgram
  pcache : s'.pcache = s.pcache
  scache : s'.scache = s.scache
  buf : s'.buf = s.buf

theorem SameView.vr {s s' : State} (h : SameView s s') (i : BitVec 4) : s'.vr i = s.vr i := by
  rw [State.vr, State.vr, h.vreg]

theorem SameView.pixel {s s' : State} (h : SameView s s') (x y : Nat) :
    Machine.pixel s' x y = Machine.pixel s x y := by
  refine pixel_congr s s' x y h.vreg h.vram h.cgram h.pcache ?_
  rw [spritePixel, spritePixel, h.vram, h.scache]

theorem SameView.drawRow {s s' : State} (h : SameView s s') (y : Nat) :
    (Machine.drawRow y s').buf = (Machine.drawRow y s).buf := by
  have pixels : (fun x => Machine.pixel s' x y) = fun x => Machine.pixel s x y := funext fun x => h.pixel x y
  simp only [Machine.drawRow, State.setBuf_buf, h.buf, pixels]

theorem SameView.rowDrawState {s s' : State} (h : SameView s s')
    (palette : (s.vr 1).getLsbD 13 = true → s'.cram = s.cram) :
    SameView (Machine.rowDrawState s) (Machine.rowDrawState s') where
  vreg := by simp only [Machine.rowDrawState, h.vreg, h.vr]
  vram := h.vram
  cgram := h.cgram
  pcache := by
    cases dirty : (s.vr 1).getLsbD 13 with
    | false => rw [rowDrawState_pcache_clean dirty, rowDrawState_pcache_clean ((h.vr 1).symm ▸ dirty), h.pcache]
    | true => rw [rowDrawState_pcache_dirty dirty, rowDrawState_pcache_dirty ((h.vr 1).symm ▸ dirty), palette dirty]
  scache := h.scache
  buf := h.buf

theorem SameView.buildSpriteCache {s s' : State} (h : SameView s s') (y : Nat) :
    (Machine.buildSpriteCache y s').scache = (Machine.buildSpriteCache y s).scache := by
  simp only [Machine.buildSpriteCache, State.setScache_scache, h.scache, spriteWalk_congr s s' (h.vr _) h.vram]

theorem SameView.skipTest {s s' : State} (h : SameView s s') : SameView (renderSkipTest s) (renderSkipTest s') := by
  unfold renderSkipTest
  rw [h.vr]
  split
  · refine ⟨?_, h.vram, h.cgram, h.pcache, h.scache, h.buf⟩
    simp only [State.setVr, State.setPhase_vreg, State.setVreg_vreg, h.vreg]
  · exact ⟨h.vreg, h.vram, h.cgram, h.pcache, h.scache, h.buf⟩

/-- A step of the renderer leaves what it writes the same in states it sees alike. -/
theorem SameView.renderStep {s s' : State} (h : SameView s s') (pt : RenderPoint)
    (palette : ∀ y, pt = .rowDraw y → (s.vr 1).getLsbD 13 = true → s'.cram = s.cram) :
    SameView (renderStep pt s) (renderStep pt s') := by
  cases pt with
  | vblank =>
    rw [Machine.renderStep, Machine.renderStep, renderVblank_eq s, renderVblank_eq s']
    exact ⟨h.vreg, h.vram, h.cgram, h.pcache, h.scache, h.buf⟩
  | skipTest => exact h.skipTest
  | rowStart y =>
    rw [Machine.renderStep, Machine.renderStep, renderRowStart_eq y s, renderRowStart_eq y s']
    exact ⟨h.vreg, h.vram, h.cgram, h.pcache, h.buildSpriteCache y, h.buf⟩
  | rowDraw y =>
    have drawn := h.rowDrawState (palette y rfl)
    rw [Machine.renderStep, Machine.renderStep, renderRowDraw_eq, renderRowDraw_eq]
    exact ⟨drawn.vreg, drawn.vram, drawn.cgram, drawn.pcache, drawn.scache, drawn.drawRow y⟩

/-- Settles O42, by what a step keeps, what it writes and what it reads. -/
theorem rendererWritesAndReads : Obligations.RendererWritesAndReads := by
  intro s t pt point ht
  cases (step_render point).symm.trans ht
  obtain ⟨pixels, sprites⟩ := renderStep_writes pt s
  refine ⟨renderStep_keeps pt s, fun a changed => ?_, fun y x row hx => ?_, fun changed => ?_,
    fun changed => sprites.resolve_right changed, ?_⟩
  · obtain ⟨y, rfl⟩ | ⟨same, -⟩ := pixels
    · rw [renderStep, renderRowDraw_buf] at changed
      have inRow : y.val * 320 ≤ a ∧ a < y.val * 320 + 320 := by_contra fun outside => changed (if_neg outside)
      exact ⟨y, rfl, inRow.1, by omega⟩
    · exact absurd (congrArg (Store.read · a) same) changed
  · subst row
    exact (renderRowDraw_row y s hx).trans (pixel_renderRowDraw y s x y).symm
  · obtain ⟨y, rfl⟩ | ⟨-, same⟩ := pixels
    · refine ⟨⟨y, rfl⟩, by_contra fun clean => changed ?_⟩
      rw [renderStep, renderRowDraw_eq]
      exact rowDrawState_pcache_clean (Bool.eq_false_iff.2 clean)
    · exact absurd same changed
  · intro s' t' point' ht' vreg vram cgram pcache scache buf palette
    cases (step_render point').symm.trans ht'
    have same := SameView.renderStep ⟨vreg, vram, cgram, pcache, scache, buf⟩ pt palette
    exact ⟨same.vreg, same.pcache, same.scache, same.buf⟩

/-! ### A frame without vectors (R803) -/

theorem run_of_step {M : Host.Core} {s t : M.State} (h : M.step s = .next t) (k : Nat) :
    M.run (k + 1) s = M.run k t := by
  rw [Host.Core.run, h]

theorem run_two_steps {s t u : State} (first : step s = .next t) (second : step t = .next u) (k : Nat) :
    Host.Core.run core (k + 2) s = Host.Core.run core k u :=
  (run_of_step (M := core) first (k + 1)).trans (run_of_step (M := core) second k)

/-- Two MODE words that agree in MODE[11:0] agree there bit by bit, and with the dirty bits cleared (R807). -/
theorem getLsbD_of_low {a b : Short} (low : a.extractLsb' 0 12 = b.extractLsb' 0 12) {i : Nat} (hi : i < 12) :
    a.getLsbD i = b.getLsbD i := by
  have := congrArg (BitVec.getLsbD · i) low
  simpa [BitVec.getLsbD_extractLsb', hi] using this

theorem and_clean_toNat (a : Short) : (a &&& 0x0FFF).toNat = (a.extractLsb' 0 12).toNat := by
  rw [BitVec.toNat_and, BitVec.extractLsb'_toNat]
  exact Nat.and_two_pow_sub_one_eq_mod _ 12

theorem and_clean_of_low {a b : Short} (low : a.extractLsb' 0 12 = b.extractLsb' 0 12) :
    a &&& 0x0FFF = b &&& 0x0FFF :=
  BitVec.eq_of_toNat_eq (by rw [and_clean_toNat, and_clean_toNat, low])

/-- The sprites that a row shows are those its walk found, whatever the slots above the sentinel hold (R810, R824). -/
theorem spritePixel_buildSpriteCache {s t : State} {y : Nat} (cache : t.scache = (buildSpriteCache y s).scache)
    (x z : Nat) : spritePixel t x z = spriteScan t.vram x z (spriteWalk s y 320 0 0) none := by
  rw [spritePixel, cache, buildSpriteCache_cells]
  refine spriteScan_sentinel _ _ _ _ _ _ fun e he zero => ?_
  obtain ⟨hit, -⟩ := mem_spriteWalk s y 320 0 0 (by decide) e he
  simp [spriteMatch, zero, cellPid] at hit

/-- The frame of `s` with `n` rows drawn. -/
structure RowsDrawn (s t : State) (n : Nat) : Prop where
  phase : t.phase = rowPhase n
  keeps : RendererKeeps s t
  callers : t.callers = s.callers
  pc : t.pc = s.pc
  hostCalls : t.hostCalls = s.hostCalls
  /-- The next row is drawn with the palette rebuilt. -/
  palette : (rowDrawState t).pcache = (rebuildPalette s).pcache
  /-- A row rebuilds the palette cache and clears the dirty bits. -/
  clean : 0 < n → t.pcache = (rebuildPalette s).pcache ∧ t.vr 1 = s.vr 1 &&& 0x0FFF
  pixels : ∀ x y, x < 320 → y < n → t.buf.read (y * 320 + x) = framePixel s x y

/-- A frame's two steps before its rows (R801, R802). -/
theorem rowsDrawn_zero {s : State} (point : s.phase = .render .vblank) (noVector : (s.vr 1).getLsbD 0 = false)
    (dirty : (s.vr 1).extractLsb' 12 4 ≠ 0) :
    ∃ t u, step s = .next t ∧ step t = .next u ∧ RowsDrawn s u 0 := by
  let t : State := { s with phase := .render .skipTest }
  have first : step s = .next t := (step_render point).trans (congrArg _ (renderVblank_no_vector noVector))
  have second : step t = .next ((t.setVr 1 (t.vr 1 ||| 0x2000)).setPhase (.render (.rowStart 0))) :=
    (step_render (pt := .skipTest) rfl).trans (congrArg _ (renderSkipTest_drawn (s := t) dirty))
  have forced := RendererKeeps.setVr_mode s (low_of_or_dirty (s.vr 1))
  refine ⟨t, _, first, second, rfl, ⟨rfl, rfl, rfl, rfl, rfl, rfl, rfl, forced.regs, forced.modeLow⟩, rfl, rfl, rfl,
    ?_, ?_, ?_⟩
  · refine rowDrawState_pcache_dirty ?_
    rw [State.vr, State.setPhase_vreg, ← State.vr, State.vr_setVr_same, BitVec.getLsbD_or]
    exact Bool.or_true _
  · exact fun h => absurd h (lt_irrefl 0)
  · exact fun x y _ h => absurd h (Nat.not_lt_zero y)

/-- The pixel of a row is that of its own sprite cache under the rebuilt palette, whichever rows came before it. -/
theorem pixel_of_rowStart {s t : State} (keeps : RendererKeeps s t)
    (palette : (rowDrawState t).pcache = (rebuildPalette s).pcache) (y : Nat) (p : Phase) (x : Nat) :
    pixel (rowDrawState { t with scache := (buildSpriteCache y t).scache, phase := p }) x y = framePixel s x y := by
  refine pixel_congr _ _ x y (Bank.ext_rd fun i => ?_) keeps.vram keeps.cgram palette ?_
  · refine (rowDrawState_vr t i).trans (Eq.trans ?_ (State.vr_setVr s 1 i _).symm)
    by_cases hi : 1 = i
    · rw [if_pos hi, if_pos hi]
      exact and_clean_of_low keeps.modeLow
    · rw [if_neg hi, if_neg hi]
      exact keeps.regs i (Ne.symm hi)
  · have walk : spriteWalk t y 320 0 0 = spriteWalk (rebuildPalette s) y 320 0 0 :=
      spriteWalk_congr (rebuildPalette s) t (keeps.regs 9 (by decide)) keeps.vram y 320 0 0
    have own := spritePixel_buildSpriteCache (t := rowDrawState { t with
      scache := (buildSpriteCache y t).scache, phase := p }) rfl x y
    rw [walk] at own
    refine own.trans (Eq.trans ?_ (spritePixel_buildSpriteCache (s := rebuildPalette s) rfl x y).symm)
    exact congrArg (spriteScan · x y _ none) keeps.vram

/-- A row's two steps (R804). -/
theorem RowsDrawn.next_row {s t : State} {n : Nat} (h : RowsDrawn s t n) (more : n < 224)
    (noVector : (s.vr 1).getLsbD 1 = false) :
    ∃ u v, step t = .next u ∧ step u = .next v ∧ RowsDrawn s v (n + 1) := by
  let y : Fin 224 := ⟨n, more⟩
  let u : State := { t with scache := (buildSpriteCache y t).scache, phase := .render (.rowDraw y) }
  have off : (t.vr 1).getLsbD 1 = false := (getLsbD_of_low h.keeps.modeLow (by decide)).trans noVector
  have first : step t = .next u :=
    (step_render (h.phase.trans (rowPhase_row more))).trans (congrArg _ (renderRowStart_no_vector (y := y) (.inl off)))
  have second : step u = .next (renderRowDraw y u) := step_render (pt := .rowDraw y) rfl
  have started : RendererKeeps t u := ⟨rfl, rfl, rfl, rfl, rfl, rfl, rfl, fun _ _ => rfl, rfl⟩
  have mode : (renderRowDraw y u).vr 1 = s.vr 1 &&& 0x0FFF := by
    rw [renderRowDraw_eq]
    exact (rowDrawState_vr u 1).trans ((if_pos rfl).trans (and_clean_of_low h.keeps.modeLow))
  have palette : (renderRowDraw y u).pcache = (rebuildPalette s).pcache := by
    rw [renderRowDraw_eq]
    exact h.palette
  refine ⟨u, _, first, second, ?phase, h.keeps.trans (started.trans (.rowDraw y u)), ?callers, ?pc, ?hostCalls,
    ?palette, fun _ => ⟨palette, mode⟩, fun x z hx hz => ?pixels⟩
  case phase => rw [renderRowDraw_eq]; rfl
  case callers => rw [renderRowDraw_eq]; exact h.callers
  case pc => rw [renderRowDraw_eq]; exact h.pc
  case hostCalls => rw [renderRowDraw_eq]; exact h.hostCalls
  case palette =>
    refine (rowDrawState_pcache_clean ?_).trans palette
    rw [mode, BitVec.getLsbD_and]
    exact Bool.and_false _
  case pixels =>
    obtain old | rfl : z < n ∨ z = n := by omega
    · rw [renderRowDraw_buf, if_neg (by simp only [y]; omega)]
      exact h.pixels x z hx old
    · exact (renderRowDraw_row y u hx).trans (pixel_of_rowStart h.keeps h.palette z _ x)

theorem RowsDrawn.rest {s : State} (noVector : (s.vr 1).getLsbD 1 = false) (k : Nat) :
    ∀ {t : State} {n : Nat}, RowsDrawn s t n → n + k = 224 →
      ∃ u, Host.Core.run core (2 * k) t = .next u ∧ RowsDrawn s u 224 := by
  induction k with
  | zero =>
    rintro t n h rfl
    exact ⟨t, rfl, h⟩
  | succ k ih =>
    intro t n h hk
    obtain ⟨u, v, first, second, drawn⟩ := h.next_row (by omega) noVector
    obtain ⟨w, run, done⟩ := ih drawn (by omega)
    exact ⟨w, (run_two_steps first second (2 * k)).trans run, done⟩

/-- Settles O47, by induction on the rows that are left. -/
theorem frameIsDrawn : Obligations.FrameIsDrawn := by
  intro s point noVblank noHblank dirty
  obtain ⟨t, u, first, second, start⟩ := rowsDrawn_zero point noVblank dirty
  obtain ⟨v, run, done⟩ := start.rest noHblank 224 rfl
  obtain ⟨palette, mode⟩ := done.clean (by decide)
  refine ⟨v, (run_two_steps first second 448).trans run, done.phase, done.keeps, ?_, palette, done.callers, done.pc,
    done.hostCalls, fun x y hx hy => done.pixels x y hx hy⟩
  rw [mode, BitVec.extractLsb'_and, show (0x0FFF : Short).extractLsb' 12 4 = 0#4 by decide, BitVec.and_zero]
  rfl

end Sys2Proof.Machine
end
